-- ==== Sys2Proof/Word.lean ====
section
/-! DEFINITION. The word types of the kiki LSB codec block and its plainest arithmetic (spec/00_scope.md rules R5, R7). -/

namespace Sys2Proof

/-- `u8`: one channel value, one payload byte, one immediate (rules R5 `CHW`, R7). -/
abbrev Byte := BitVec 8

/-- `u32`: one control and status register, one command word, the CRC (rules R5, R7, R23, R90). -/
abbrev Word := BitVec 32

/-- `u64`: the seed and the state of `REF_PRNG` (rules R5 `SEEDW`, R145). -/
abbrev DWord := BitVec 64

/-- `ceil_div(a, b) = (a + b - 1) div b` on natural numbers (rule R7). -/
def ceilDiv (a b : Nat) : Nat := (a + b - 1) / b

end Sys2Proof
end

