-- ==== Sys2Proof/Config.lean ====
section
/-! DEFINITION. What an implementation of the block fixes (spec/00_scope.md rule R5: the OPEN parameters), and the model's
free values. A `Config` is data; no definition of the model fixes one, every definition reads the one its state carries. -/

namespace Sys2Proof

/-- The generator of the block, `PRNG = (St, init, range)` (spec/42_prng_seed.md rule R143): the specified hardware's own
`REF_PRNG`, or any other generator that meets the laws L1 and L2. Another generator is known by a number only: its functions
are the opaque `Config.otherInit` and `Config.otherRange`, so a proof about `Prng.other k` holds for every generator. -/
inductive Prng where
  /-- `REF_PRNG` of rules R145, R146. -/
  | ref
  /-- Any other generator that meets L1 and L2. -/
  | other (k : Nat)
  deriving DecidableEq, Repr

/-- The OPEN parameters of rule R5. The fixed ones (`LENW`, `CRCW`, `SEEDW`, `CHW`, `NCH`, `DIMW`) are the widths of the
types of `Word.lean`. -/
structure Config where
  /-- `MAX_PIXELS`: the pixels of PIX. -/
  maxPixels : Nat
  /-- `PBUF_SIZE`: the bytes of PBUF. -/
  pbufSize : Nat
  /-- `RBUF_SIZE`: the bytes of RBUF. -/
  rbufSize : Nat
  /-- `PRNG`: the generator. -/
  prng : Prng
  deriving DecidableEq, Repr

/-- The reference configuration of rule R5: `MAX_PIXELS = 2^20`, `PBUF_SIZE = RBUF_SIZE = 2^16`, `PRNG = REF_PRNG`. The
spec calls it a test fixture and not a property of the hardware. -/
def Config.reference : Config :=
  { maxPixels := 1048576, pbufSize := 65536, rbufSize := 65536, prng := .ref }

/-- FREE VALUE (DESIGN CHOICE, log entry 3). `PRNG.init` of generator number `k`: the state from the 64-bit seed. The state
of a generator other than `REF_PRNG` is coded as a natural number. -/
opaque Config.otherInit (k : Nat) (seed : DWord) : Nat

/-- FREE VALUE (DESIGN CHOICE, log entry 3). `PRNG.range` of generator number `k`, before the reduction that makes law L2
hold: from a state and `n`, a number and the next state. -/
opaque Config.otherRange (k : Nat) (st n : Nat) : Nat × Nat

/-- FREE VALUE (DESIGN CHOICE, log entry 5). What CLR leaves in `PRNG_S`, which rule R46 leaves unspecified: the value for
the `j`-th CLR. -/
opaque Config.freePrngS (j : Nat) : Nat

/-- FREE VALUE (DESIGN CHOICE, log entry 14). The 8-byte length field SHA-256 appends to a message of `bits` bits where that
number does not fit 8 bytes, which rule R141 does not give. -/
opaque Config.freeShaLength (bits : Nat) : DWord

end Sys2Proof
end

