-- ==== Sys2Proof/Syntax.lean ====
section
/-! DEFINITION. The fourteen commands of the block as data (spec/30_encoding.md rules R91, R93; spec/opcode_table.json). -/

namespace Sys2Proof

/-- The traversal mode `M` of rule R91: Random (`RNG`, the default) or Sequential (`SEQ`). -/
inductive Mode where
  | rng
  | seq
  deriving DecidableEq, Repr

/-- One command: one constructor per row of the opcode table (rule R93). -/
inductive Instr where
  /-- `NOP`, rule R215. -/
  | nop
  /-- `CLR`, rule R216. -/
  | clr
  /-- `CRC_INIT`, rule R127. -/
  | crcInit
  /-- `CRC_BYTE imm8`, rule R128. -/
  | crcByte (imm8 : Byte)
  /-- `CRC_BUF`, rule R129. -/
  | crcBuf
  /-- `CRC_CHK`, rule R130. -/
  | crcChk
  /-- `SEQ_INIT.m`, rule R161. -/
  | seqInit (m : Mode)
  /-- `SEQ_NEXT`, rule R165. -/
  | seqNext
  /-- `MUX_WR`, rule R178. -/
  | muxWr
  /-- `MUX_RD`, rule R179. -/
  | muxRd
  /-- `EMBED.m`, rule R190. -/
  | embed (m : Mode)
  /-- `EXTRACT.m`, rule R202. -/
  | extract (m : Mode)
  /-- `GATE_YES`, rule R205. -/
  | gateYes
  /-- `GATE_NO`, rule R206. -/
  | gateNo
  deriving DecidableEq, Repr

/-- The three formats of a command word (rule R91): no operand, mode operand, 8-bit immediate. -/
inductive Format where
  | z
  | m
  | i
  deriving DecidableEq, Repr

/-- The mnemonic of the row of the opcode table a command stands for (rule R93). -/
def Instr.mnemonic : Instr → String
  | .nop => "NOP"
  | .clr => "CLR"
  | .crcInit => "CRC_INIT"
  | .crcByte _ => "CRC_BYTE"
  | .crcBuf => "CRC_BUF"
  | .crcChk => "CRC_CHK"
  | .seqInit _ => "SEQ_INIT"
  | .seqNext => "SEQ_NEXT"
  | .muxWr => "MUX_WR"
  | .muxRd => "MUX_RD"
  | .embed _ => "EMBED"
  | .extract _ => "EXTRACT"
  | .gateYes => "GATE_YES"
  | .gateNo => "GATE_NO"

/-- The format of each command (rule R93, column "format"). -/
def Instr.format : Instr → Format
  | .nop => .z
  | .clr => .z
  | .crcInit => .z
  | .crcByte _ => .i
  | .crcBuf => .z
  | .crcChk => .z
  | .seqInit _ => .m
  | .seqNext => .z
  | .muxWr => .z
  | .muxRd => .z
  | .embed _ => .m
  | .extract _ => .m
  | .gateYes => .z
  | .gateNo => .z

end Sys2Proof
end

