-- ==== Sys2Proof/WellFormed.lean ====
section
/-! DEFINITION. The checks on what the model is given: a command word against the match and mask columns of the opcode map
(spec/30_encoding.md rules R93, R94), a configuration against the bounds of spec/00_scope.md rule R5, and a command term. -/

namespace Sys2Proof

/-- One row of the opcode map of rule R93. -/
structure OpRow where
  mnemonic : String
  format : Format
  matchBits : Word
  mask : Word
  deriving DecidableEq, Repr

/-- The opcode map of rule R93, in its order. -/
def opTable : List OpRow :=
  [ ⟨"NOP",      .z, 0x00000000#32, 0xFFFFFFFF#32⟩,
    ⟨"CLR",      .z, 0x00000001#32, 0xFFFFFFFF#32⟩,
    ⟨"CRC_INIT", .z, 0x00000010#32, 0xFFFFFFFF#32⟩,
    ⟨"CRC_BYTE", .i, 0x00000011#32, 0xFF00FFFF#32⟩,
    ⟨"CRC_BUF",  .z, 0x00000012#32, 0xFFFFFFFF#32⟩,
    ⟨"CRC_CHK",  .z, 0x00000013#32, 0xFFFFFFFF#32⟩,
    ⟨"SEQ_INIT", .m, 0x00000020#32, 0xFFFFFEFF#32⟩,
    ⟨"SEQ_NEXT", .z, 0x00000021#32, 0xFFFFFFFF#32⟩,
    ⟨"MUX_WR",   .z, 0x00000030#32, 0xFFFFFFFF#32⟩,
    ⟨"MUX_RD",   .z, 0x00000031#32, 0xFFFFFFFF#32⟩,
    ⟨"EMBED",    .m, 0x00000040#32, 0xFFFFFEFF#32⟩,
    ⟨"EXTRACT",  .m, 0x00000041#32, 0xFFFFFEFF#32⟩,
    ⟨"GATE_YES", .z, 0x00000042#32, 0xFFFFFFFF#32⟩,
    ⟨"GATE_NO",  .z, 0x00000043#32, 0xFFFFFFFF#32⟩ ]

/-- "a word `w` is the command exactly when `w and mask = match`" (rule R93). -/
def OpRow.hits (r : OpRow) (w : Word) : Bool := (w &&& r.mask) == r.matchBits

/-- A word is legal when it matches a row, and illegal otherwise (rule R94). -/
def legalWord (w : Word) : Bool := opTable.any (·.hits w)

/-- The bounds rule R5 puts on the OPEN parameters: `MAX_PIXELS >= 1`, `PBUF_SIZE` and `RBUF_SIZE` in `0 .. 2^32 - 1`. -/
def Config.wf (c : Config) : Bool :=
  decide (1 ≤ c.maxPixels) && decide (c.pbufSize < 4294967296) && decide (c.rbufSize < 4294967296)

/-- A command term is well formed. The operand types carry every bound of rule R92 (`IMM8` is a byte, `M` is one of two
modes), so no ill-formed term can be written: the check that can fail is the one on words, `legalWord`. -/
def Instr.wf : Instr → Bool
  | .nop | .clr | .crcInit | .crcByte _ | .crcBuf | .crcChk | .seqInit _ | .seqNext | .muxWr | .muxRd | .embed _
  | .extract _ | .gateYes | .gateNo => true

end Sys2Proof
end

