-- ==== Sys2Proof/Decode.lean ====
section
/-! DEFINITION. The decoder of a command word, total on all 2^32 words and rejecting by name, and after it the encoder, both
written from the formats and the opcode column of spec/30_encoding.md rules R90 to R94. A command is one 32-bit word, the data
of one host write; there are no bytes to fetch and no byte order (rules R72, R90). -/

namespace Sys2Proof

/-- Why a word is illegal (rule R94). -/
inductive IllegalWord where
  /-- Its `OPC` is not in the table. -/
  | unlistedOpcode (opc : Byte)
  /-- Its `OPC` is listed and a must-be-zero bit is set. -/
  | mustBeZero (opc : Byte)
  deriving DecidableEq, Repr

/-- `OPC = w[7:0]` (rule R91). -/
def opcField (w : Word) : Byte := w.extractLsb' 0 8

/-- `M = w[8]`, 0 Random and 1 Sequential (rules R91, R92). -/
def modeField (w : Word) : Mode := if w.extractLsb' 8 1 = 1#1 then .seq else .rng

/-- `IMM8 = w[23:16]`, unsigned (rules R91, R92). -/
def imm8Field (w : Word) : Byte := w.extractLsb' 16 8

/-- Format Z: bits 31:8 are zero (rule R91). -/
def zeroFieldsZ (w : Word) : Bool := w.extractLsb' 8 24 == 0#24

/-- Format M: bits 31:9 are zero (rule R91). -/
def zeroFieldsM (w : Word) : Bool := w.extractLsb' 9 23 == 0#23

/-- Format I: bits 31:24 and 15:8 are zero (rule R91). -/
def zeroFieldsI (w : Word) : Bool := w.extractLsb' 24 8 == 0#8 && w.extractLsb' 8 8 == 0#8

/-- A word with a listed opcode is the command if its must-be-zero bits are zero. -/
def decodeIf (zero : Bool) (w : Word) (i : Instr) : Except IllegalWord Instr :=
  if zero then .ok i else .error (.mustBeZero (opcField w))

/-- The decoder (rules R93, R94). -/
def decode (w : Word) : Except IllegalWord Instr :=
  match (opcField w).toNat with
  | 0x00 => decodeIf (zeroFieldsZ w) w .nop
  | 0x01 => decodeIf (zeroFieldsZ w) w .clr
  | 0x10 => decodeIf (zeroFieldsZ w) w .crcInit
  | 0x11 => decodeIf (zeroFieldsI w) w (.crcByte (imm8Field w))
  | 0x12 => decodeIf (zeroFieldsZ w) w .crcBuf
  | 0x13 => decodeIf (zeroFieldsZ w) w .crcChk
  | 0x20 => decodeIf (zeroFieldsM w) w (.seqInit (modeField w))
  | 0x21 => decodeIf (zeroFieldsZ w) w .seqNext
  | 0x30 => decodeIf (zeroFieldsZ w) w .muxWr
  | 0x31 => decodeIf (zeroFieldsZ w) w .muxRd
  | 0x40 => decodeIf (zeroFieldsM w) w (.embed (modeField w))
  | 0x41 => decodeIf (zeroFieldsM w) w (.extract (modeField w))
  | 0x42 => decodeIf (zeroFieldsZ w) w .gateYes
  | 0x43 => decodeIf (zeroFieldsZ w) w .gateNo
  | _ => .error (.unlistedOpcode (opcField w))

/-- The mode bit of a mode (rule R91). -/
def Mode.bit : Mode → BitVec 1
  | .rng => 0#1
  | .seq => 1#1

/-- Format Z drawn as in rule R91, bit 31 leftmost. -/
def wordZ (opc : Byte) : Word := 0#24 ++ opc

/-- Format M drawn as in rule R91, bit 31 leftmost. -/
def wordM (m : Mode) (opc : Byte) : Word := 0#23 ++ m.bit ++ opc

/-- Format I drawn as in rule R91, bit 31 leftmost. -/
def wordI (imm8 : Byte) (opc : Byte) : Word := 0#8 ++ imm8 ++ 0#8 ++ opc

/-- The encoder: the word of each command (rule R93, columns "OPC" and "format"). -/
def encode : Instr → Word
  | .nop => wordZ 0x00#8
  | .clr => wordZ 0x01#8
  | .crcInit => wordZ 0x10#8
  | .crcByte imm8 => wordI imm8 0x11#8
  | .crcBuf => wordZ 0x12#8
  | .crcChk => wordZ 0x13#8
  | .seqInit m => wordM m 0x20#8
  | .seqNext => wordZ 0x21#8
  | .muxWr => wordZ 0x30#8
  | .muxRd => wordZ 0x31#8
  | .embed m => wordM m 0x40#8
  | .extract m => wordM m 0x41#8
  | .gateYes => wordZ 0x42#8
  | .gateNo => wordZ 0x43#8

/-- The word whose low `nbits` bits are those of `w` and whose other bits are 0. -/
def tableWord (nbits w : Nat) : Word := BitVec.ofNat 32 (w % 2 ^ nbits)

/-- What the decoder reads from a row of spec/opcode_table.json: every row is one 32-bit word. -/
def decodeTableWord (nbits w : Nat) : Option Instr :=
  match decode (tableWord nbits w) with
  | .ok i => some i
  | .error _ => none

end Sys2Proof
end

