-- ==== Sys2Proof/Machine/State.lean ====
section
/-! DEFINITION. The whole state of the block as plain data (spec/10_state.md rule R20: the registers of R23, the hidden state of
R45 to R47, the memories of R48 to R50), the outcomes a step can stop with, and the state after reset (rules R52, R260). -/

namespace Sys2Proof.Machine

/-- `RUN` (rule R45). -/
inductive Run where
  | idle
  | gatewait
  deriving DecidableEq, Repr

/-- The error kinds of spec/60_exceptions.md rule R225. -/
inductive CmdError where
  | capacityExceeded
  | integrityMismatch
  | userAborted
  | seqExhausted
  | illegalCommand
  | badDimensions
  | bufferRange
  | pixelRange
  deriving DecidableEq, Repr

/-- The byte memories (spec/20_memory.md rule R60). -/
inductive Space where
  | pix
  | pbuf
  | rbuf
  deriving DecidableEq, Repr

/-- What stops the machine for good. -/
inductive Fault where
  /-- Raised by SEQ_NEXT, EMBED, EXTRACT and GATE_YES in Random mode when the redraw loop does not end: the command never ends
  and the block answers no further transaction (spec/43_sequencer.md rule R168, spec/00_scope.md rule R10). Safe (log entry 7). -/
  | hang
  /-- Raised by a command whose own access falls outside the memory `sp`. No state a run reaches does this
  (spec/20_memory.md rule R62). Safe (log entry 10). -/
  | blockAccess (sp : Space)
  deriving DecidableEq, Repr

/-- What has no meaning in the model. -/
inductive Refusal where
  /-- An instruction the model does not cover yet. Raised by no arm of `exec`. Safe. -/
  | notModelled (mnemonic : String)
  deriving DecidableEq, Repr

/-- The channel triplet of the `TRIP` register (rule R35, spec/44_lsb_mux.md rule R180): bit `s` of `v` is the value of slot
`s`, bit `s` of `p` says whether slot `s` is present; `p` bit 0 is Absent. -/
structure Trip where
  v : BitVec 3
  p : BitVec 3
  deriving DecidableEq, Repr

/-- The width of a host access to the CSR space (rule R67). -/
inductive CsrWidth where
  | byte
  | half
  | word
  deriving DecidableEq, Repr

/-- A transaction on the host port (rule R61), with the forms rules R67 and R73 refuse: a CSR access of another width, any
offset, any address, and a write to RBUF. -/
inductive HostTxn where
  | csrRead (width : CsrWidth) (off : Nat)
  | csrWrite (width : CsrWidth) (off : Nat) (v : Word)
  | pixRead (a : Nat)
  | pixWrite (a : Nat) (v : Byte)
  | pbufRead (j : Nat)
  | pbufWrite (j : Nat) (v : Byte)
  | rbufRead (j : Nat)
  | rbufWrite (j : Nat) (v : Byte)
  deriving DecidableEq, Repr

/-- What the host port answers (spec/00_scope.md rule R11). -/
inductive HostAnswer where
  /-- No transaction has been asked for yet. -/
  | noneYet
  /-- A CSR read was performed. -/
  | word (v : Word)
  /-- A memory read was performed. -/
  | byte (v : Byte)
  /-- A write was performed. -/
  | performed
  /-- `HostBusError`: the transaction was refused (rule R73). -/
  | busError
  deriving DecidableEq, Repr

/-- A byte memory: the bytes that differ from `Memory.unlisted`, addresses strictly rising. -/
abbrev Memory := List Host.Cell

/-- A pixel coordinate `(x, y)` (spec/00_scope.md rule R12). -/
abbrev Coord := Nat × Nat

/-- The state. Derived registers (`CRC_VAL`, `RLEN`, `STATUS.GATEWAIT`, `STATUS.PHASE`) are views and hold nothing. -/
structure State where
  /-- `STATUS.DONE` (rule R25). -/
  done : Bool
  /-- `STATUS.ERR` (rule R25). -/
  err : Bool
  /-- `STATUS.RVALID` (rule R25). -/
  rvalid : Bool
  /-- `STATUS.CRCOK` (rule R25). -/
  crcok : Bool
  /-- `SMODE`, visible as `STATUS.SEQMODE` (rules R25, R46). -/
  smode : Mode
  /-- `ERRCODE[7:0]` (rule R26). -/
  errcode : Byte
  /-- `CTRL.GATE_EN` (rule R27). -/
  gateEn : Bool
  /-- `WIDTH` (rule R28). -/
  width : Word
  /-- `HEIGHT` (rule R29). -/
  height : Word
  /-- `PLEN` (rule R30). -/
  plen : Word
  /-- `GATE_THR` (rule R31). -/
  gateThr : Word
  /-- `SEED_LO` (rule R32). -/
  seedLo : Word
  /-- `SEED_HI` (rule R32). -/
  seedHi : Word
  /-- `CRC_EXP` (rule R33). -/
  crcExp : Word
  /-- `SEQ_X` (rule R34). -/
  seqX : Word
  /-- `SEQ_Y` (rule R34). -/
  seqY : Word
  /-- `TRIP` (rule R35). -/
  trip : Trip
  /-- `CRC_ACC` (rule R36). -/
  crcAcc : Word
  /-- `FLEN` (rule R38). -/
  flen : Word
  /-- `SEQ_CNT` (rule R40), a natural number (log entry 8). -/
  seqCnt : Nat
  /-- `BITPOS` (rules R22, R41), a natural number (log entry 8). -/
  bitpos : Nat
  /-- `RUN` (rule R45). -/
  run : Run
  /-- `SW` (rule R46). -/
  sw : Word
  /-- `SH` (rule R46). -/
  sh : Word
  /-- `PRNG_S` (rule R46), the generator's state coded as a natural number (log entry 3). -/
  prngS : Nat
  /-- `USED` (rule R47), the coordinates the Random traversal has emitted, newest first (log entry 9). -/
  used : List Coord
  /-- `PIX` (rule R48). -/
  pix : Memory
  /-- `PBUF` (rule R49). -/
  pbuf : Memory
  /-- `RBUF` (rule R50). -/
  rbuf : Memory
  /-- The OPEN parameters of rule R5; no step changes them (log entry 2). -/
  cfg : Config
  /-- The model's counter for free values (log entry 5). -/
  freeCtr : Nat
  /-- The host's transactions still to be performed, the next one first (log entry 1). -/
  inbox : List HostTxn
  /-- What the last transaction answered (log entry 1). -/
  answer : HostAnswer
  deriving DecidableEq, Repr

/-- The state after reset (rules R52, R260) with the configuration `c` and with what the spec leaves unspecified and a model
takes as part of the launch state: the contents of the memories and `PRNG_S`. The host has asked for nothing. -/
def State.launch (c : Config) (pix pbuf rbuf : Memory) (prngS : Nat) : State :=
  { done := false, err := false, rvalid := false, crcok := false, smode := .rng,
    errcode := 0x00#8,
    gateEn := true,
    width := 0x00000000#32, height := 0x00000000#32, plen := 0x00000000#32,
    gateThr := 0x00100000#32,
    seedLo := 0x98FC1C14#32, seedHi := 0xE3B0C442#32,
    crcExp := 0x00000000#32, seqX := 0x00000000#32, seqY := 0x00000000#32,
    trip := { v := 0#3, p := 0#3 },
    crcAcc := 0xFFFFFFFF#32, flen := 0x00000000#32, seqCnt := 0, bitpos := 0,
    run := .idle, sw := 0x00000000#32, sh := 0x00000000#32,
    prngS := prngS, used := [],
    pix := pix, pbuf := pbuf, rbuf := rbuf,
    cfg := c, freeCtr := 0, inbox := [], answer := .noneYet }

/-- The machine right after reset: the reference configuration (log entry 2), nothing listed in any memory (log entry 6),
`PRNG_S` at 0 (log entry 4), no transaction waiting (log entry 1). -/
def State.reset : State := State.launch Config.reference [] [] [] 0

end Sys2Proof.Machine
end

