-- ==== Sys2Proof/Machine/Ops.lean ====
section
/-! DEFINITION. The named operations every command is written over: byte memories, the results a piece of pseudocode can have
(spec/00_scope.md rule R9), error entry (spec/60_exceptions.md rule R226), the common prologue and epilogue (rule R227), legality by
state (spec/30_encoding.md rule R95) and the dimension check (spec/43_sequencer.md rule R161). -/

namespace Sys2Proof.Machine

/-! ## Byte memories -/

/-- What a byte that is not listed reads as (DESIGN CHOICE, log entry 6): rules R52 and R261 leave the contents of the
memories after reset unspecified. -/
def Memory.unlisted : Byte := 0x00#8

/-- The canonical form from address `lo` on: addresses strictly rising, no entry equal to `Memory.unlisted`. -/
def Memory.wfFrom : Nat → Memory → Bool
  | _, [] => true
  | lo, (a, v) :: r => decide (lo ≤ a) && (v != Memory.unlisted) && Memory.wfFrom (a + 1) r

/-- The canonical form of a memory. -/
def Memory.wf (m : Memory) : Bool := Memory.wfFrom 0 m

/-- Every listed address is below `n`. -/
def Memory.below (n : Nat) (m : Memory) : Bool := m.all fun c => decide (c.1 < n)

/-- The byte at an address. -/
def Memory.read : Memory → Nat → Byte
  | [], _ => Memory.unlisted
  | (b, w) :: r, a => if a = b then w else Memory.read r a

/-- Store a byte, keeping the canonical form. -/
def Memory.write : Memory → Nat → Byte → Memory
  | [], a, v => if v = Memory.unlisted then [] else [(a, v)]
  | (b, w) :: r, a, v =>
    if a < b then (if v = Memory.unlisted then (b, w) :: r else (a, v) :: (b, w) :: r)
    else if a = b then (if v = Memory.unlisted then r else (a, v) :: r)
    else (b, w) :: Memory.write r a v

/-- The size of a memory in bytes (rules R48 to R50, R60). -/
def spaceSize (c : Config) : Space → Nat
  | .pix => 4 * c.maxPixels
  | .pbuf => c.pbufSize
  | .rbuf => c.rbufSize

/-- The memory of a space. -/
def State.mem (s : State) : Space → Memory
  | .pix => s.pix
  | .pbuf => s.pbuf
  | .rbuf => s.rbuf

/-- The state with the memory of a space replaced. -/
def State.setMem (s : State) : Space → Memory → State
  | .pix, m => { s with pix := m }
  | .pbuf, m => { s with pbuf := m }
  | .rbuf, m => { s with rbuf := m }

/-! ## The results of a piece of pseudocode -/

/-- How a piece of a command's pseudocode ends (rule R9): it goes on with a value, it reaches a `raise`, it reaches `suspend`,
or the machine stops. -/
inductive Res (α : Type) where
  | ok (a : α) (s : State)
  | raised (e : CmdError) (s : State)
  | suspended (s : State)
  | stuck (f : Fault)

/-- Sequencing: nothing after a `raise` or a `suspend` runs (rule R9). -/
def Res.andThen {α β : Type} (r : Res α) (f : α → State → Res β) : Res β :=
  match r with
  | .ok a s => f a s
  | .raised e s => .raised e s
  | .suspended s => .suspended s
  | .stuck x => .stuck x

/-- `MemRead(SPACE, a, 1)` of rule R9. -/
def memRead (sp : Space) (a : Nat) (s : State) : Res Byte :=
  if a < spaceSize s.cfg sp then .ok ((s.mem sp).read a) s else .stuck (.blockAccess sp)

/-- `MemWrite(SPACE, a, 1, v)` of rule R9. -/
def memWrite (sp : Space) (a : Nat) (v : Byte) (s : State) : Res Unit :=
  if a < spaceSize s.cfg sp then .ok () (s.setMem sp ((s.mem sp).write a v)) else .stuck (.blockAccess sp)

/-- `MemRead(SPACE, j, 1), …` for the `n` addresses from `j` on, in order. -/
def memReadRange (sp : Space) : Nat → Nat → State → Res (List Byte)
  | 0, _, s => .ok [] s
  | n + 1, j, s =>
    (memRead sp j s).andThen fun b s1 =>
      (memReadRange sp n (j + 1) s1).andThen fun bs s2 => .ok (b :: bs) s2

/-! ## Errors, prologue, epilogue -/

/-- The code of an error kind (spec/60_exceptions.md rule R225). -/
def errorCode : CmdError → Byte
  | .capacityExceeded => 1#8
  | .integrityMismatch => 2#8
  | .userAborted => 3#8
  | .seqExhausted => 4#8
  | .illegalCommand => 5#8
  | .badDimensions => 6#8
  | .bufferRange => 7#8
  | .pixelRange => 8#8

/-- TAKING AN EXCEPTION: `raise E` of rule R226, exactly its four writes. Nothing is saved, there is no handler and no return
instruction (rules R226, R229). -/
def raiseError (e : CmdError) (s : State) : State :=
  { s with run := .idle, done := false, err := true, errcode := errorCode e }

/-- The common prologue of rule R227. -/
def prologue (s : State) : State :=
  { s with done := false, err := false, errcode := 0x00#8 }

/-- The end of a command (rule R227): complete sets `DONE`; an error is entered by rule R226; a suspension sets neither flag. -/
def finish (r : Res Unit) : Host.Outcome State Fault Refusal :=
  match r with
  | .ok _ s => .next { s with done := true }
  | .raised e s => .next (raiseError e s)
  | .suspended s => .next s
  | .stuck f => .fault f

/-- Which commands a legal word may start, by `RUN` (rule R95). -/
def accepted : Instr → Run → Bool
  | .nop, _ => true
  | .clr, _ => true
  | .crcInit, r => r == .idle
  | .crcByte _, r => r == .idle
  | .crcBuf, r => r == .idle
  | .crcChk, r => r == .idle
  | .seqInit _, r => r == .idle
  | .seqNext, r => r == .idle
  | .muxWr, r => r == .idle
  | .muxRd, r => r == .idle
  | .embed _, r => r == .idle
  | .extract _, r => r == .idle
  | .gateYes, r => r == .gatewait
  | .gateNo, r => r == .gatewait

/-- Steps (2) and (4) of rule R96 for a command other than NOP: refuse it by `IllegalCommand` before the prologue where `RUN`
does not accept it, else run the prologue, its rule, and the epilogue. -/
def runCommand (i : Instr) (body : State → Res Unit) (s : State) : Host.Outcome State Fault Refusal :=
  if accepted i s.run then finish (body (prologue s)) else .next (raiseError .illegalCommand s)

/-- The macro prologue EMBED and EXTRACT share (spec/45_embed.md rule R190): six writes. -/
def macroPrologue (s : State) : State :=
  { s with bitpos := 0, trip := { v := 0#3, p := 0#3 }, flen := 0x00000000#32, crcAcc := 0xFFFFFFFF#32,
           rvalid := false, crcok := false }

/-- `check_dims()` of rule R161, on unbounded naturals (rule R8). -/
def checkDims (s : State) : Res Unit :=
  if s.width.toNat = 0 ∨ s.height.toNat = 0 ∨ s.cfg.maxPixels < s.width.toNat * s.height.toNat then
    .raised .badDimensions s
  else .ok () s

end Sys2Proof.Machine
end

