-- ==== Sys2Proof/Machine/Control.lean ====
section
/-! DEFINITION. The control commands NOP and CLR (spec/47_control.md rules R215, R216). -/

namespace Sys2Proof.Machine

/-- `NOP` (rule R215): no state at all is changed, and the common prologue is skipped (rule R96 step 3). -/
def execNop (s : State) : Host.Outcome State Fault Refusal := .next s

/-- The writes of `CLR` (rule R216). `PRNG_S` becomes unspecified (rule R46): a free value (log entry 5). -/
def clear (s : State) : State :=
  { s with run := .idle, rvalid := false, crcok := false,
           crcAcc := 0xFFFFFFFF#32, crcExp := 0x00000000#32,
           seqX := 0x00000000#32, seqY := 0x00000000#32, trip := { v := 0#3, p := 0#3 },
           flen := 0x00000000#32, bitpos := 0, seqCnt := 0,
           sw := 0x00000000#32, sh := 0x00000000#32, smode := .rng, used := [],
           prngS := Config.freePrngS s.freeCtr, freeCtr := s.freeCtr + 1 }

/-- `CLR` (rule R216): accepted in every `RUN`; the one command that completes without setting `DONE`. -/
def execClr (s : State) : Host.Outcome State Fault Refusal := .next (clear (prologue s))

end Sys2Proof.Machine
end

