-- ==== Sys2Proof/Machine/Operands.lean ====
section
/-! DEFINITION. The operand forms: where a command's inputs come from besides its word (spec/30_encoding.md rule R92), and how a
register that is a view is made of what the state holds. -/

namespace Sys2Proof.Machine

/-- `pix_addr(x, y, c) = 4 * (y * W + x) + c` (spec/20_memory.md rule R62), on unbounded naturals (rule R8). -/
def pixAddr (w x y c : Nat) : Nat := 4 * (y * w + x) + c

/-- `pix_addr` with the live `CSR[WIDTH]` (rule R62). -/
def State.pixAddr (s : State) (x y c : Nat) : Nat := Sys2Proof.Machine.pixAddr s.width.toNat x y c

/-- `SEED = SEED_HI * 2^32 + SEED_LO` (rules R32, R74). -/
def State.seed (s : State) : DWord := s.seedHi ++ s.seedLo

/-- Bits 31:0 of a 64-bit quantity (rule R74). -/
def lowHalf (n : Nat) : Word := BitVec.ofNat 32 n

/-- Bits 63:32 of a 64-bit quantity (rule R74). -/
def highHalf (n : Nat) : Word := BitVec.ofNat 32 (n / 4294967296)

/-- The `TRIP` register as a word: `V` at bits 2:0, `P` at bits 6:4, the rest 0 (rules R35, R180). -/
def tripWord (t : Trip) : Word := 0#25 ++ t.p ++ 0#1 ++ t.v

/-- What a host write stores in `TRIP`: bits 2:0 and 6:4 (rule R35). -/
def tripOfWord (w : Word) : Trip := { v := w.extractLsb' 0 3, p := w.extractLsb' 4 3 }

/-- A slot of a channel triplet: a bit or Absent (spec/40_bitstream.md rule R111). -/
inductive Slot where
  | bit (b : Bool)
  | absent
  deriving DecidableEq, Repr

/-- Slot `k` of the `TRIP` register (rule R180): `Absent` is `P[k] = 0`, and then `V[k]` is ignored. -/
def Trip.slot (t : Trip) (k : Nat) : Slot := if t.p.getLsbD k then .bit (t.v.getLsbD k) else .absent

/-- The bit a slot contributes to `V`: the block writes `V[s] = 0` with `P[s] = 0` (rule R180). -/
def Slot.value : Slot → Bool
  | .bit b => b
  | .absent => false

/-- The bit a slot contributes to `P` (rule R180). -/
def Slot.present : Slot → Bool
  | .bit _ => true
  | .absent => false

/-- The hardware form of three slots, slot 0 at bit 0 (rule R180). -/
def tripOfSlots (s0 s1 s2 : Slot) : Trip :=
  { v := BitVec.ofBool s2.value ++ BitVec.ofBool s1.value ++ BitVec.ofBool s0.value,
    p := BitVec.ofBool s2.present ++ BitVec.ofBool s1.present ++ BitVec.ofBool s0.present }

/-- The data bit of a channel byte is bit 0 and only bit 0 (rule R66). -/
def lsb (c : Byte) : Bool := c.getLsbD 0

/-- `(old and 0xFE) or b` (spec/44_lsb_mux.md rule R176). -/
def setLsb (old : Byte) (b : Bool) : Byte := (old &&& 0xFE#8) ||| BitVec.setWidth 8 (BitVec.ofBool b)

end Sys2Proof.Machine
end

