-- ==== Sys2Proof/Machine/BitStream.lean ====
section
/-! DEFINITION. The bit-stream functions of spec/40_bitstream.md: `bits_of` (rule R110), `batch` (rule R111), `bytes_of` (rule
R112). A bit is a `Bool`; a stream is a list, index 0 first. -/

namespace Sys2Proof.Machine

/-- The eight bits of a byte, most significant first (rule R110). -/
def byteBits (b : Byte) : List Bool :=
  [b.getLsbD 7, b.getLsbD 6, b.getLsbD 5, b.getLsbD 4, b.getLsbD 3, b.getLsbD 2, b.getLsbD 1, b.getLsbD 0]

/-- `bits_of(bytes)` (rule R110). -/
def bitsOf (bytes : List Byte) : List Bool := bytes.flatMap byteBits

/-- Slot of a list at an index: the bit there, or Absent past the end (rule R111). -/
def slotAt (bits : List Bool) (i : Nat) : Slot :=
  match bits[i]? with
  | some b => .bit b
  | none => .absent

/-- `batch(bits, n)` (rule R111): `ceil_div(m, n)` groups of `n` slots, group `k` slot `s` at stream index `n * k + s`. -/
def batch (bits : List Bool) (n : Nat) : List (List Slot) :=
  (List.range (ceilDiv bits.length n)).map fun k => (List.range n).map fun s => slotAt bits (n * k + s)

/-- `bytes_of(bits, n)` for the `n` bits of the list, folded from the left (rule R112). -/
def bytesOf (bits : List Bool) : Nat := bits.foldl (fun v b => 2 * v + b.toNat) 0

end Sys2Proof.Machine
end

