-- ==== Sys2Proof/Machine/Flags.lean ====
section
/-! DEFINITION. The flags of the block: the `STATUS` word and its derived fields (spec/10_state.md rules R25, R42), and the other
derived registers (rules R37, R39). -/

namespace Sys2Proof.Machine

/-- The four states of the frame cursor (rule R42). -/
inductive Phase where
  | awaitingLength
  | awaitingPayload
  | awaitingCrc
  | done
  deriving DecidableEq, Repr

/-- `phase_of(i, L)` of rule R42. -/
def phaseOf (i l : Nat) : Phase :=
  if i < 32 then .awaitingLength
  else if i < 32 + 8 * l then .awaitingPayload
  else if i < 64 + 8 * l then .awaitingCrc
  else .done

/-- The number `STATUS.PHASE` shows (rules R25, R42). -/
def Phase.code : Phase → BitVec 2
  | .awaitingLength => 0#2
  | .awaitingPayload => 1#2
  | .awaitingCrc => 2#2
  | .done => 3#2

/-- `STATUS.PHASE` follows `BITPOS` and `FLEN` (rules R25, R42). -/
def State.phase (s : State) : Phase := phaseOf s.bitpos s.flen.toNat

/-- `STATUS.GATEWAIT` reads 1 exactly when `RUN = GATEWAIT` (rule R25). -/
def State.gateFlag (s : State) : Bool := s.run == .gatewait

/-- `STATUS.SEQMODE`: 0 Random, 1 Sequential (rule R25). -/
def State.seqMode (s : State) : BitVec 1 := s.smode.bit

/-- The `STATUS` word, bit 31 leftmost (rule R25). -/
def State.statusWord (s : State) : Word :=
  0#24 ++ s.phase.code ++ s.seqMode ++ BitVec.ofBool s.crcok ++ BitVec.ofBool s.rvalid
    ++ BitVec.ofBool s.gateFlag ++ BitVec.ofBool s.err ++ BitVec.ofBool s.done

/-- The `ERRCODE` word: bits 7:0 hold the code, bits 31:8 read 0 (rule R26). -/
def State.errcodeWord (s : State) : Word := 0#24 ++ s.errcode

/-- The `CTRL` word: bit 0 is `GATE_EN`, bits 31:1 read 0 (rule R27). -/
def State.ctrlWord (s : State) : Word := 0#31 ++ BitVec.ofBool s.gateEn

/-- `CRC_VAL` reads `CRC_ACC xor 0xFFFF_FFFF` (rule R37). -/
def State.crcVal (s : State) : Word := s.crcAcc ^^^ 0xFFFFFFFF#32

/-- `RLEN` reads `FLEN` when `RVALID = 1`, and 0 otherwise (rule R39). -/
def State.rlen (s : State) : Word := if s.rvalid then s.flen else 0x00000000#32

end Sys2Proof.Machine
end

