-- ==== Sys2Proof/Machine/Crc.lean ====
section
/-! DEFINITION. The payload frame and the CRC-32 unit U1 (spec/41_framer_crc.md): the frame as bytes and as bits (rules R120 to
R122), the CRC (rules R124, R125), and the unit commands CRC_INIT, CRC_BYTE, CRC_BUF, CRC_CHK (rules R127 to R130). -/

namespace Sys2Proof.Machine

/-! ## CRC-32 -/

/-- One of the eight steps of `crc_update` (rule R124). -/
def crcStep (a : Word) : Word :=
  if a.getLsbD 0 then (a >>> 1) ^^^ 0xEDB88320#32 else a >>> 1

/-- `k` steps (rule R124). -/
def crcSteps : Nat → Word → Word
  | 0, a => a
  | k + 1, a => crcSteps k (crcStep a)

/-- `crc_update(acc, b)` (rule R124). -/
def crcUpdate (acc : Word) (b : Byte) : Word := crcSteps 8 (acc ^^^ b.setWidth 32)

/-- `crc_fold(acc, B)` (rule R125). -/
def crcFold (acc : Word) (bytes : List Byte) : Word := bytes.foldl crcUpdate acc

/-- `crc32(B)` (rule R125). -/
def crc32 (bytes : List Byte) : Word := crcFold 0xFFFFFFFF#32 bytes ^^^ 0xFFFFFFFF#32

/-! ## The frame -/

/-- `BE32(v)` (rules R65, R120). -/
def be32 (v : Word) : List Byte :=
  [v.extractLsb' 24 8, v.extractLsb' 16 8, v.extractLsb' 8 8, v.extractLsb' 0 8]

/-- `frame(P)` (rule R120). -/
def frame (payload : List Byte) : List Byte :=
  be32 (BitVec.ofNat 32 payload.length) ++ payload ++ be32 (crc32 payload)

/-- `R(L) = 8 * (L + 8)` (rule R122; spec/90_conflicts.md C1). -/
def frameBits (l : Nat) : Nat := 8 * (l + 8)

/-- `frame_bit(P, i)` written out as in rule R121, with the trailer `c` given (rule R190: `CRC_ACC xor 0xFFFFFFFF`). -/
def frameBitWith (payload : List Byte) (c : Word) (i : Nat) : Bool :=
  let l := payload.length
  if i < 32 then (BitVec.ofNat 32 l).getLsbD (31 - i)
  else if i < 32 + 8 * l then (payload.getD ((i - 32) / 8) 0x00#8).getLsbD (7 - (i - 32) % 8)
  else c.getLsbD (31 - (i - 32 - 8 * l))

/-- `frame_bit(P, i)` (rule R121). -/
def frameBit (payload : List Byte) (i : Nat) : Bool := frameBitWith payload (crc32 payload) i

/-! ## Unit commands -/

/-- Fold `PBUF[0 .. n-1]` into `CRC_ACC`, and give those bytes (the loop of rules R129 and R190 step 2). -/
def foldPbuf (n : Nat) (s : State) : Res (List Byte) :=
  (memReadRange .pbuf n 0 s).andThen fun bytes s1 =>
    .ok bytes { s1 with crcAcc := crcFold s1.crcAcc bytes }

/-- The comparison of rules R126, R130 and R203: set `CRCOK` by it and give its result. -/
def compareCrc (s : State) : Bool × State :=
  (s.crcVal == s.crcExp, { s with crcok := s.crcVal == s.crcExp })

/-- `CRC_INIT` (rule R127). -/
def execCrcInit (s : State) : Host.Outcome State Fault Refusal :=
  runCommand .crcInit (fun s => .ok () { s with crcAcc := 0xFFFFFFFF#32 }) s

/-- `CRC_BYTE imm8` (rule R128). -/
def execCrcByte (imm8 : Byte) (s : State) : Host.Outcome State Fault Refusal :=
  runCommand (.crcByte imm8) (fun s => .ok () { s with crcAcc := crcUpdate s.crcAcc imm8 }) s

/-- The pseudocode of `CRC_BUF` (rule R129). -/
def crcBufBody (s : State) : Res Unit :=
  if s.cfg.pbufSize < s.plen.toNat then .raised .bufferRange s
  else (foldPbuf s.plen.toNat s).andThen fun _ s1 => .ok () s1

/-- `CRC_BUF` (rule R129). -/
def execCrcBuf (s : State) : Host.Outcome State Fault Refusal := runCommand .crcBuf crcBufBody s

/-- The pseudocode of `CRC_CHK` (rule R130). -/
def crcChkBody (s : State) : Res Unit :=
  if (compareCrc s).1 then .ok () (compareCrc s).2 else .raised .integrityMismatch (compareCrc s).2

/-- `CRC_CHK` (rule R130). -/
def execCrcChk (s : State) : Host.Outcome State Fault Refusal := runCommand .crcChk crcChkBody s

end Sys2Proof.Machine
end

