-- ==== Sys2Proof/Machine/Mux.lean ====
section
/-! DEFINITION. The LSB channel multiplexer U2 (spec/44_lsb_mux.md): `mux_wr` (rule R176), `mux_rd` (rule R177), `check_xy` (rule
R182), and the commands MUX_WR and MUX_RD (rules R178, R179). -/

namespace Sys2Proof.Machine

/-- One slot of `mux_wr` (rule R176): replace bit 0 of the channel byte, or leave the channel neither read nor written. -/
def muxWrSlot (x y k : Nat) (s : State) : Res Unit :=
  match s.trip.slot k with
  | .absent => .ok () s
  | .bit b =>
    (memRead .pix (s.pixAddr x y k) s).andThen fun old s1 =>
      memWrite .pix (s.pixAddr x y k) (setLsb old b) s1

/-- `mux_wr(x, y)` (rule R176): R, then G, then B. -/
def muxWr (x y : Nat) (s : State) : Res Unit :=
  (muxWrSlot x y 0 s).andThen fun _ s1 =>
    (muxWrSlot x y 1 s1).andThen fun _ s2 => muxWrSlot x y 2 s2

/-- `mux_rd(x, y)` (rule R177): the three LSBs, every slot present. -/
def muxRd (x y : Nat) (s : State) : Res Unit :=
  (memRead .pix (s.pixAddr x y 0) s).andThen fun r s1 =>
    (memRead .pix (s.pixAddr x y 1) s1).andThen fun g s2 =>
      (memRead .pix (s.pixAddr x y 2) s2).andThen fun b s3 =>
        .ok () { s3 with trip := tripOfSlots (.bit (lsb r)) (.bit (lsb g)) (.bit (lsb b)) }

/-- `check_xy()` (rule R182), on unbounded naturals (rule R8). -/
def checkXy (s : State) : Res Unit :=
  if s.cfg.maxPixels < s.width.toNat * s.height.toNat ∨ s.width.toNat ≤ s.seqX.toNat ∨ s.height.toNat ≤ s.seqY.toNat then
    .raised .pixelRange s
  else .ok () s

/-- The pseudocode of `MUX_WR` (rule R178). -/
def muxWrBody (s : State) : Res Unit :=
  (checkXy s).andThen fun _ s1 => muxWr s1.seqX.toNat s1.seqY.toNat s1

/-- `MUX_WR` (rule R178). -/
def execMuxWr (s : State) : Host.Outcome State Fault Refusal := runCommand .muxWr muxWrBody s

/-- The pseudocode of `MUX_RD` (rule R179). -/
def muxRdBody (s : State) : Res Unit :=
  (checkXy s).andThen fun _ s1 => muxRd s1.seqX.toNat s1.seqY.toNat s1

/-- `MUX_RD` (rule R179). -/
def execMuxRd (s : State) : Host.Outcome State Fault Refusal := runCommand .muxRd muxRdBody s

end Sys2Proof.Machine
end

