-- ==== Sys2Proof/Machine/Prng.lean ====
section
/-! DEFINITION. The seeded generator (spec/42_prng_seed.md): `REF_PRNG` (rules R145 to R147) and the generator of a configuration
as `PRNG.init` and `PRNG.range` (rule R143). -/

namespace Sys2Proof.Machine

/-- The next state of `next64` (rule R145). -/
def next64State (s : DWord) : DWord := s + 0x9E3779B97F4A7C15#64

/-- First mixing line of `next64` (rule R145). -/
def mixA (z : DWord) : DWord := (z ^^^ (z >>> 30)) * 0xBF58476D1CE4E5B9#64

/-- Second mixing line of `next64` (rule R145). -/
def mixB (z : DWord) : DWord := (z ^^^ (z >>> 27)) * 0x94D049BB133111EB#64

/-- Third mixing line of `next64` (rule R145). -/
def mixC (z : DWord) : DWord := z ^^^ (z >>> 31)

/-- The value of `next64` (rule R145). -/
def next64Value (s : DWord) : DWord := mixC (mixB (mixA (next64State s)))

/-- The loop of `range` with threshold `t`, run under fuel (rules R146, R147). -/
def refRangeLoop (t n : Nat) : Nat → DWord → Option (Nat × DWord)
  | 0, _ => none
  | fuel + 1, s =>
    if t ≤ (next64Value s).toNat then some ((next64Value s).toNat % n, next64State s)
    else refRangeLoop t n fuel (next64State s)

/-- `range(s, n)` of `REF_PRNG` (rule R146): the threshold is `2^64 mod n`, the fuel is `n` (rule R147). -/
def refRange (s : DWord) (n : Nat) : Option (Nat × DWord) := refRangeLoop (18446744073709551616 % n) n n s

/-- `PRNG.init` (rules R143, R145). -/
def prngInit (g : Prng) (seed : DWord) : Nat :=
  match g with
  | .ref => seed.toNat
  | .other k => Config.otherInit k seed

/-- `PRNG.range` for `n >= 1` (rules R143, R146): a value below `n` (law L2) and the next state. `none` is a loop that has not
ended; only `REF_PRNG` has one. -/
def prngRange (g : Prng) (st n : Nat) : Option (Nat × Nat) :=
  match g with
  | .ref =>
    match refRange (BitVec.ofNat 64 st) n with
    | some (v, st1) => some (v, st1.toNat)
    | none => none
  | .other k => some ((Config.otherRange k st n).1 % n, (Config.otherRange k st n).2)

end Sys2Proof.Machine
end

