-- ==== Sys2Proof/Machine/Sequencer.lean ====
section
/-! DEFINITION. The pixel-address sequencer U3 (spec/43_sequencer.md): `seq_init` (rule R161), `seq_next` (rules R162 to R168), and
the commands SEQ_INIT and SEQ_NEXT (rules R161, R165). -/

namespace Sys2Proof.Machine

/-- `seq_init(m)` (rule R161). -/
def seqInit (m : Mode) (s : State) : State :=
  { s with sw := s.width, sh := s.height, smode := m, prngS := prngInit s.cfg.prng s.seed, used := [], seqCnt := 0 }

/-- One draw of rule R164: `x` from `range(., SW)` first, then `y` from `range(., SH)`; a draw has consumed both calls. -/
def drawCoord (g : Prng) (sw sh st : Nat) : Option (Coord × Nat) :=
  match prngRange g st sw with
  | none => none
  | some (x, st1) =>
    match prngRange g st1 sh with
    | none => none
    | some (y, st2) => some ((x, y), st2)

/-- The redraw loop of rule R162, run under fuel (rule R168): the first draw that is not in `USED`, if there is one. -/
def redraw (g : Prng) (sw sh : Nat) (used : List Coord) : Nat → Nat → Option (Coord × Nat)
  | 0, _ => none
  | fuel + 1, st =>
    match drawCoord g sw sh st with
    | none => none
    | some (xy, st1) => if xy ∈ used then redraw g sw sh used fuel st1 else some (xy, st1)

/-- How many draws one request may take in the model: 2^64 (log entry 7). `REF_PRNG` has 2^64 states, so a request that has
not found a fresh coordinate in 2^64 draws never finds one. -/
def drawBound : Nat := 18446744073709551616

/-- The last lines of `seq_next`: count the coordinate and write `SEQ_X`, `SEQ_Y` (rule R162). -/
def emitCoord (xy : Coord) (s : State) : Res Coord :=
  .ok xy { s with seqCnt := s.seqCnt + 1, seqX := BitVec.ofNat 32 xy.1, seqY := BitVec.ofNat 32 xy.2 }

/-- `seq_next()` (rule R162). -/
def seqNext (s : State) : Res Coord :=
  if s.sw.toNat * s.sh.toNat ≤ s.seqCnt then .raised .seqExhausted s
  else
    match s.smode with
    | .seq => emitCoord (s.seqCnt % s.sw.toNat, s.seqCnt / s.sw.toNat) s
    | .rng =>
      match redraw s.cfg.prng s.sw.toNat s.sh.toNat s.used drawBound s.prngS with
      | none => .stuck .hang
      | some (xy, st) => emitCoord xy { s with prngS := st, used := xy :: s.used }

/-- The pseudocode of `SEQ_INIT.m` (rule R161). -/
def seqInitBody (m : Mode) (s : State) : Res Unit :=
  (checkDims s).andThen fun _ s1 => .ok () (seqInit m s1)

/-- `SEQ_INIT.m` (rule R161). -/
def execSeqInit (m : Mode) (s : State) : Host.Outcome State Fault Refusal := runCommand (.seqInit m) (seqInitBody m) s

/-- The pseudocode of `SEQ_NEXT` (rule R165). -/
def seqNextBody (s : State) : Res Unit := (seqNext s).andThen fun _ s1 => .ok () s1

/-- `SEQ_NEXT` (rule R165). -/
def execSeqNext (s : State) : Host.Outcome State Fault Refusal := runCommand .seqNext seqNextBody s

/-- The coordinates of the next `n` requests of the traversal a state is in, if each of them is answered (rules R160, R166,
R169). No command runs this: statements use it to name the coordinates a command visits. -/
def coordsFrom : Nat → State → Option (List Coord)
  | 0, _ => some []
  | n + 1, s =>
    match seqNext s with
    | .ok xy s1 =>
      match coordsFrom n s1 with
      | some cs => some (xy :: cs)
      | none => none
    | _ => none

/-- The first `n` coordinates of the traversal a `seq_init(m)` starts in a state (rules R144, R161). -/
def traversal (m : Mode) (n : Nat) (s : State) : Option (List Coord) := coordsFrom n (seqInit m s)

end Sys2Proof.Machine
end

