-- ==== Sys2Proof/Machine/Embed.lean ====
section
/-! DEFINITION. The EMBED command of the controller U4 (spec/45_embed.md rule R190). -/

namespace Sys2Proof.Machine

/-- Slot of the frame at index `i`: its bit below `R`, Absent from `R` on (rule R190). -/
def frameSlot (payload : List Byte) (c : Word) (r i : Nat) : Slot :=
  if i < r then .bit (frameBitWith payload c i) else .absent

/-- Triplet `k` of the frame (rule R190). -/
def frameTrip (payload : List Byte) (c : Word) (r k : Nat) : Trip :=
  tripOfSlots (frameSlot payload c r (3 * k)) (frameSlot payload c r (3 * k + 1)) (frameSlot payload c r (3 * k + 2))

/-- Steps 4, 6, 7 of rule R190: `n` more triplets from triplet `k` on, one per pixel. -/
def embedLoop (payload : List Byte) (c : Word) (r : Nat) : Nat → Nat → State → Res Unit
  | 0, _, s => .ok () s
  | n + 1, k, s =>
    (seqNext s).andThen fun xy s1 =>
      (muxWr xy.1 xy.2 { s1 with trip := frameTrip payload c r k }).andThen fun _ s2 =>
        embedLoop payload c r n (k + 1) { s2 with bitpos := min (3 * k + 3) r }

/-- Steps 3 to 7 of rule R190, with the payload read and its CRC folded. -/
def embedFrame (m : Mode) (payload : List Byte) (s : State) : Res Unit :=
  if 3 * s.width.toNat * s.height.toNat < frameBits s.flen.toNat then .raised .capacityExceeded s
  else
    embedLoop payload s.crcVal (frameBits s.flen.toNat) (ceilDiv (frameBits s.flen.toNat) 3) 0 (seqInit m s)

/-- The pseudocode of `EMBED.m` (rule R190). -/
def embedBody (m : Mode) (s : State) : Res Unit :=
  (checkDims (macroPrologue s)).andThen fun _ s1 =>
    if s1.cfg.pbufSize < s1.plen.toNat then .raised .bufferRange s1
    else
      (foldPbuf s1.plen.toNat { s1 with flen := s1.plen }).andThen fun payload s2 => embedFrame m payload s2

/-- `EMBED.m` (rule R190). -/
def execEmbed (m : Mode) (s : State) : Host.Outcome State Fault Refusal := runCommand (.embed m) (embedBody m) s

end Sys2Proof.Machine
end

