-- ==== Sys2Proof/Machine/Extract.lean ====
section
/-! DEFINITION. The EXTRACT, GATE_YES and GATE_NO commands of the controller U4 (spec/46_extract.md rules R200 to R206). -/

namespace Sys2Proof.Machine

/-- The first lines of `pull_bit()` (rule R200): every third call asks the sequencer for a pixel and reads it. -/
def pullPixel (s : State) : Res Unit :=
  if s.bitpos % 3 = 0 then (seqNext s).andThen fun xy s1 => muxRd xy.1 xy.2 s1 else .ok () s

/-- `pull_bit()` (rule R200). -/
def pullBit (s : State) : Res Bool :=
  (pullPixel s).andThen fun _ s1 =>
    .ok (s1.trip.v.getLsbD (s1.bitpos % 3)) { s1 with bitpos := s1.bitpos + 1 }

/-- `pull_field(n)` (rule R201), with the value folded so far. -/
def pullBits : Nat → Nat → State → Res Nat
  | 0, v, s => .ok v s
  | n + 1, v, s => (pullBit s).andThen fun b s1 => pullBits n (2 * v + b.toNat) s1

/-- `pull_field(n)` (rule R201). -/
def pullField (n : Nat) (s : State) : Res Nat := pullBits n 0 s

/-- Step 5 of rule R203: `n` more payload bytes from byte `j` on, each stored in RBUF and folded into `CRC_ACC`. -/
def extractPayload : Nat → Nat → State → Res Unit
  | 0, _, s => .ok () s
  | n + 1, j, s =>
    (pullField 8 s).andThen fun v s1 =>
      (memWrite .rbuf j (BitVec.ofNat 8 v) s1).andThen fun _ s2 =>
        extractPayload n (j + 1) { s2 with crcAcc := crcUpdate s2.crcAcc (BitVec.ofNat 8 v) }

/-- Steps 7 and 8 of rule R203. -/
def extractVerify (s : State) : Res Unit :=
  if (compareCrc s).1 then .ok () { (compareCrc s).2 with rvalid := true }
  else .raised .integrityMismatch (compareCrc s).2

/-- `extract_tail()` (rule R203). -/
def extractTail (s : State) : Res Unit :=
  if s.cfg.rbufSize < s.flen.toNat then .raised .bufferRange s
  else
    (extractPayload s.flen.toNat 0 s).andThen fun _ s1 =>
      (pullField 32 s1).andThen fun v s2 => extractVerify { s2 with crcExp := BitVec.ofNat 32 v }

/-- The condition of the gate: `GATE_EN = 1` and `L > GATE_THR` (rules R31, R204). -/
def State.gateFires (s : State) : Bool := s.gateEn && decide (s.gateThr.toNat < s.flen.toNat)

/-- Step 4 of rule R202 and what follows it: suspend, or go on with the tail. -/
def extractGate (s : State) : Res Unit :=
  if s.gateFires then .suspended { s with run := .gatewait } else extractTail s

/-- The pseudocode of `EXTRACT.m` (rule R202). -/
def extractBody (m : Mode) (s : State) : Res Unit :=
  (checkDims (macroPrologue s)).andThen fun _ s1 =>
    (pullField 32 (seqInit m s1)).andThen fun l s2 => extractGate { s2 with flen := BitVec.ofNat 32 l }

/-- `EXTRACT.m` (rule R202). -/
def execExtract (m : Mode) (s : State) : Host.Outcome State Fault Refusal := runCommand (.extract m) (extractBody m) s

/-- `GATE_YES` (rule R205). -/
def execGateYes (s : State) : Host.Outcome State Fault Refusal :=
  runCommand .gateYes (fun s => extractTail { s with run := .idle }) s

/-- `GATE_NO` (rule R206). -/
def execGateNo (s : State) : Host.Outcome State Fault Refusal :=
  runCommand .gateNo (fun s => .raised .userAborted { s with run := .idle }) s

end Sys2Proof.Machine
end

