-- ==== Sys2Proof/Machine/Dispatch.lean ====
section
/-! DEFINITION. The meaning of each command of spec/30_encoding.md rule R93: one arm per constructor. -/

namespace Sys2Proof.Machine

-- control (spec/47_control.md), CRC (41), sequencer (43), multiplexer (44), controller (45, 46)
def exec (i : Instr) (s : State) : Host.Outcome State Fault Refusal :=
  match i with
  | .nop => Sys2Proof.Machine.execNop s
  | .clr => Sys2Proof.Machine.execClr s
  | .crcInit => Sys2Proof.Machine.execCrcInit s
  | .crcByte imm8 => Sys2Proof.Machine.execCrcByte imm8 s
  | .crcBuf => Sys2Proof.Machine.execCrcBuf s
  | .crcChk => Sys2Proof.Machine.execCrcChk s
  | .seqInit m => Sys2Proof.Machine.execSeqInit m s
  | .seqNext => Sys2Proof.Machine.execSeqNext s
  | .muxWr => Sys2Proof.Machine.execMuxWr s
  | .muxRd => Sys2Proof.Machine.execMuxRd s
  | .embed m => Sys2Proof.Machine.execEmbed m s
  | .extract m => Sys2Proof.Machine.execExtract m s
  | .gateYes => Sys2Proof.Machine.execGateYes s
  | .gateNo => Sys2Proof.Machine.execGateNo s

end Sys2Proof.Machine
end

