-- ==== Sys2Proof/Machine/HostPort.lean ====
section
/-! DEFINITION. The host port: the register map (spec/10_state.md rule R23), what a read and a write of each register does, and
one host transaction, performed or refused (spec/20_memory.md rules R61, R64, R67, R69, R73). -/

namespace Sys2Proof.Machine

/-- The 22 registers of rule R23. -/
inductive Csr where
  | cmd
  | status
  | errcode
  | ctrl
  | width
  | height
  | plen
  | gateThr
  | seedLo
  | seedHi
  | crcExp
  | seqX
  | seqY
  | trip
  | crcAcc
  | crcVal
  | flen
  | rlen
  | seqCntLo
  | seqCntHi
  | bitposLo
  | bitposHi
  deriving DecidableEq, Repr

/-- The offset of each register (rule R23). -/
def Csr.offset : Csr → Nat
  | .cmd => 0x00
  | .status => 0x04
  | .errcode => 0x08
  | .ctrl => 0x0C
  | .width => 0x10
  | .height => 0x14
  | .plen => 0x18
  | .gateThr => 0x1C
  | .seedLo => 0x20
  | .seedHi => 0x24
  | .crcExp => 0x28
  | .seqX => 0x2C
  | .seqY => 0x30
  | .trip => 0x34
  | .crcAcc => 0x38
  | .crcVal => 0x3C
  | .flen => 0x40
  | .rlen => 0x44
  | .seqCntLo => 0x48
  | .seqCntHi => 0x4C
  | .bitposLo => 0x50
  | .bitposHi => 0x54

/-- The register at an offset; none at a misaligned offset or at 0x58 and above (rules R23, R67). -/
def csrAt (off : Nat) : Option Csr :=
  match off with
  | 0x00 => some .cmd
  | 0x04 => some .status
  | 0x08 => some .errcode
  | 0x0C => some .ctrl
  | 0x10 => some .width
  | 0x14 => some .height
  | 0x18 => some .plen
  | 0x1C => some .gateThr
  | 0x20 => some .seedLo
  | 0x24 => some .seedHi
  | 0x28 => some .crcExp
  | 0x2C => some .seqX
  | 0x30 => some .seqY
  | 0x34 => some .trip
  | 0x38 => some .crcAcc
  | 0x3C => some .crcVal
  | 0x40 => some .flen
  | 0x44 => some .rlen
  | 0x48 => some .seqCntLo
  | 0x4C => some .seqCntHi
  | 0x50 => some .bitposLo
  | 0x54 => some .bitposHi
  | _ => none

/-- The register a CSR access reaches: an aligned word access only (rule R67). -/
def csrTarget (wd : CsrWidth) (off : Nat) : Option Csr :=
  match wd with
  | .word => csrAt off
  | .byte => none
  | .half => none

/-- What a read of a register gives (rules R24 to R41). `CMD` reads 0. -/
def readCsr (s : State) : Csr → Word
  | .cmd => 0x00000000#32
  | .status => s.statusWord
  | .errcode => s.errcodeWord
  | .ctrl => s.ctrlWord
  | .width => s.width
  | .height => s.height
  | .plen => s.plen
  | .gateThr => s.gateThr
  | .seedLo => s.seedLo
  | .seedHi => s.seedHi
  | .crcExp => s.crcExp
  | .seqX => s.seqX
  | .seqY => s.seqY
  | .trip => tripWord s.trip
  | .crcAcc => s.crcAcc
  | .crcVal => s.crcVal
  | .flen => s.flen
  | .rlen => s.rlen
  | .seqCntLo => lowHalf s.seqCnt
  | .seqCntHi => highHalf s.seqCnt
  | .bitposLo => lowHalf s.bitpos
  | .bitposHi => highHalf s.bitpos

/-- A write of an RW register (rules R23, R27 to R35); none for `CMD` and for the read-only registers. -/
def writeCsr (r : Csr) (v : Word) (s : State) : Option State :=
  match r with
  | .ctrl => some { s with gateEn := v.getLsbD 0 }
  | .width => some { s with width := v }
  | .height => some { s with height := v }
  | .plen => some { s with plen := v }
  | .gateThr => some { s with gateThr := v }
  | .seedLo => some { s with seedLo := v }
  | .seedHi => some { s with seedHi := v }
  | .crcExp => some { s with crcExp := v }
  | .seqX => some { s with seqX := v }
  | .seqY => some { s with seqY := v }
  | .trip => some { s with trip := tripOfWord v }
  | .cmd => none
  | .status => none
  | .errcode => none
  | .crcAcc => none
  | .crcVal => none
  | .flen => none
  | .rlen => none
  | .seqCntLo => none
  | .seqCntHi => none
  | .bitposLo => none
  | .bitposHi => none

/-- A performed transaction's answer. -/
def respond (a : HostAnswer) (s : State) : State := { s with answer := a }

/-- `HostBusError`: no data, and no state of the block changes (rules R11, R73). -/
def refuseTxn (s : State) : State := respond .busError s

/-- A write of `w` to `CMD` (rules R24, R72, R96): an illegal word raises `IllegalCommand`, a legal one starts its command. -/
def startCommand (w : Word) (s : State) : Host.Outcome State Fault Refusal :=
  match decode w with
  | .ok i => exec i s
  | .error _ => .next (raiseError .illegalCommand s)

/-- The host may write something other than `CMD` only while `RUN = IDLE` (rule R69). -/
def hostMayWrite (s : State) : Bool := s.run == .idle

/-- A CSR write that reaches register `r` (rules R23, R69, R73). -/
def csrWriteTo (r : Csr) (v : Word) (s : State) : Host.Outcome State Fault Refusal :=
  match r with
  | .cmd => startCommand v (respond .performed s)
  | r =>
    if hostMayWrite s then
      match writeCsr r v s with
      | some s1 => .next (respond .performed s1)
      | none => .next (refuseTxn s)
    else .next (refuseTxn s)

/-- A host read of a byte memory: refused at and above its size (rule R67). -/
def hostRead (sp : Space) (a : Nat) (s : State) : State :=
  if a < spaceSize s.cfg sp then respond (.byte ((s.mem sp).read a)) s else refuseTxn s

/-- A host write of a byte memory: refused at and above its size, and while suspended (rules R67, R69). -/
def hostWrite (sp : Space) (a : Nat) (v : Byte) (s : State) : State :=
  if hostMayWrite s && decide (a < spaceSize s.cfg sp) then respond .performed (s.setMem sp ((s.mem sp).write a v))
  else refuseTxn s

/-- `RbufRead(j)`: performed only if `RVALID = 1` and `j < FLEN`, inside the space (rules R64, R73). -/
def hostReadRbuf (j : Nat) (s : State) : State :=
  if s.rvalid && decide (j < s.flen.toNat) then hostRead .rbuf j s else refuseTxn s

/-- One host transaction (rules R61, R73). -/
def performTxn (t : HostTxn) (s : State) : Host.Outcome State Fault Refusal :=
  match t with
  | .csrRead wd off =>
    match csrTarget wd off with
    | some r => .next (respond (.word (readCsr s r)) s)
    | none => .next (refuseTxn s)
  | .csrWrite wd off v =>
    match csrTarget wd off with
    | some r => csrWriteTo r v s
    | none => .next (refuseTxn s)
  | .pixRead a => .next (hostRead .pix a s)
  | .pixWrite a v => .next (hostWrite .pix a v s)
  | .pbufRead j => .next (hostRead .pbuf j s)
  | .pbufWrite j v => .next (hostWrite .pbuf j v s)
  | .rbufRead j => .next (hostReadRbuf j s)
  | .rbufWrite _ _ => .next (refuseTxn s)

/-- One step of a run (rule R10): the host's next transaction is taken from the inbox and performed. While the host asks for
nothing the block does nothing (rule R260). -/
def hostStep (s : State) : Host.Outcome State Fault Refusal :=
  match s.inbox with
  | [] => .next s
  | t :: ts => performTxn t { s with inbox := ts }

end Sys2Proof.Machine
end

