-- ==== Sys2Proof/Machine/Step.lean ====
section
/-! DEFINITION. The step of the machine and the placing of a command word where the next step finds it (log entry 1). -/

namespace Sys2Proof.Machine

/-- One step: one host transaction (spec/00_scope.md rule R10). -/
def step (s : State) : Host.Outcome State Fault Refusal := Sys2Proof.Machine.hostStep s

/-- `s` with the command word of a row of spec/opcode_table.json as the next thing the host writes to `CMD`: there is no
instruction memory, a command is the data of a host write (spec/20_memory.md rule R72). -/
def State.withFetchWord (s : State) (nbits w : Nat) : State :=
  { s with inbox := HostTxn.csrWrite .word 0 (tableWord nbits w) :: s.inbox }

end Sys2Proof.Machine
end

