-- ==== Sys2Proof/Machine/Seed.lean ====
section
/-! DEFINITION. The seed derivation the host computes (spec/42_prng_seed.md rules R140, R141): SHA-256 and `derive_seed`. The block's
step never calls it: the block sees only `SEED` (rule R140). -/

namespace Sys2Proof.Machine

def shaCh (x y z : Word) : Word := (x &&& y) ^^^ (~~~x &&& z)
def shaMaj (x y z : Word) : Word := (x &&& y) ^^^ (x &&& z) ^^^ (y &&& z)
def shaBigS0 (x : Word) : Word := x.rotateRight 2 ^^^ x.rotateRight 13 ^^^ x.rotateRight 22
def shaBigS1 (x : Word) : Word := x.rotateRight 6 ^^^ x.rotateRight 11 ^^^ x.rotateRight 25
def shaSmallS0 (x : Word) : Word := x.rotateRight 7 ^^^ x.rotateRight 18 ^^^ (x >>> 3)
def shaSmallS1 (x : Word) : Word := x.rotateRight 17 ^^^ x.rotateRight 19 ^^^ (x >>> 10)

/-- `K[0..31]` of rule R141. -/
def shaK0 : List Word :=
  [ 0x428a2f98#32, 0x71374491#32, 0xb5c0fbcf#32, 0xe9b5dba5#32, 0x3956c25b#32, 0x59f111f1#32, 0x923f82a4#32, 0xab1c5ed5#32,
    0xd807aa98#32, 0x12835b01#32, 0x243185be#32, 0x550c7dc3#32, 0x72be5d74#32, 0x80deb1fe#32, 0x9bdc06a7#32, 0xc19bf174#32,
    0xe49b69c1#32, 0xefbe4786#32, 0x0fc19dc6#32, 0x240ca1cc#32, 0x2de92c6f#32, 0x4a7484aa#32, 0x5cb0a9dc#32, 0x76f988da#32,
    0x983e5152#32, 0xa831c66d#32, 0xb00327c8#32, 0xbf597fc7#32, 0xc6e00bf3#32, 0xd5a79147#32, 0x06ca6351#32, 0x14292967#32 ]

/-- `K[32..63]` of rule R141. -/
def shaK1 : List Word :=
  [ 0x27b70a85#32, 0x2e1b2138#32, 0x4d2c6dfc#32, 0x53380d13#32, 0x650a7354#32, 0x766a0abb#32, 0x81c2c92e#32, 0x92722c85#32,
    0xa2bfe8a1#32, 0xa81a664b#32, 0xc24b8b70#32, 0xc76c51a3#32, 0xd192e819#32, 0xd6990624#32, 0xf40e3585#32, 0x106aa070#32,
    0x19a4c116#32, 0x1e376c08#32, 0x2748774c#32, 0x34b0bcb5#32, 0x391c0cb3#32, 0x4ed8aa4a#32, 0x5b9cca4f#32, 0x682e6ff3#32,
    0x748f82ee#32, 0x78a5636f#32, 0x84c87814#32, 0x8cc70208#32, 0x90befffa#32, 0xa4506ceb#32, 0xbef9a3f7#32, 0xc67178f2#32 ]

/-- `K[0..63]` of rule R141. -/
def shaK : List Word := shaK0 ++ shaK1

/-- The eight working words `a … h`, also the hash words `H[0..7]` (rule R141). -/
structure ShaWords where
  a : Word
  b : Word
  c : Word
  d : Word
  e : Word
  f : Word
  g : Word
  h : Word
  deriving DecidableEq, Repr

/-- The initial `H` of rule R141. -/
def shaInit : ShaWords :=
  { a := 0x6a09e667#32, b := 0xbb67ae85#32, c := 0x3c6ef372#32, d := 0xa54ff53a#32,
    e := 0x510e527f#32, f := 0x9b05688c#32, g := 0x1f83d9ab#32, h := 0x5be0cd19#32 }

/-- One of the 64 rounds of rule R141, with `K[t] + W[t]` given. -/
def shaRound (x : ShaWords) (kw : Word) : ShaWords :=
  let t1 := x.h + shaBigS1 x.e + shaCh x.e x.f x.g + kw
  let t2 := shaBigS0 x.a + shaMaj x.a x.b x.c
  { a := t1 + t2, b := x.a, c := x.b, d := x.c, e := x.d + t1, f := x.e, g := x.f, h := x.g }

/-- The message schedule, newest word first: `n` more words after those of `ws` (rule R141, `t in 16 .. 63`). -/
def shaExtend : Nat → List Word → List Word
  | 0, ws => ws
  | n + 1, ws =>
    shaExtend n ((shaSmallS1 (ws.getD 1 0#32) + ws.getD 6 0#32 + shaSmallS0 (ws.getD 14 0#32) + ws.getD 15 0#32) :: ws)

/-- The bytes of a block as big-endian words (rule R141). -/
def shaWordsOf : List Byte → List Word
  | b0 :: b1 :: b2 :: b3 :: r => (b0 ++ b1 ++ b2 ++ b3) :: shaWordsOf r
  | _ => []

/-- One 64-byte block (rule R141). -/
def shaBlock (h : ShaWords) (block : List Byte) : ShaWords :=
  let w := (shaExtend 48 (shaWordsOf block).reverse).reverse
  let x := (shaK.zipWith (· + ·) w).foldl shaRound h
  { a := h.a + x.a, b := h.b + x.b, c := h.c + x.c, d := h.d + x.d,
    e := h.e + x.e, f := h.f + x.f, g := h.g + x.g, h := h.h + x.h }

/-- The big-endian bytes of a word. -/
def shaBytesOfWord (w : Word) : List Byte :=
  [w.extractLsb' 24 8, w.extractLsb' 16 8, w.extractLsb' 8 8, w.extractLsb' 0 8]

/-- The bit length as the 8-byte field of rule R141. The rule says "append l as 8 bytes" and bounds no key: what the field holds
for 2^64 bits or more it does not say, and there the model has a free value (DESIGN CHOICE, log entry 14). -/
def shaLengthField (bits : Nat) : DWord :=
  if bits < 18446744073709551616 then BitVec.ofNat 64 bits else Config.freeShaLength bits

/-- The padding of rule R141: 0x80, zeros until the length is 56 modulo 64, then the bit length as 8 big-endian bytes
(`shaLengthField`; log entry 14 for a message of 2^64 bits or more). -/
def shaPad (msg : List Byte) : List Byte :=
  let l := shaLengthField (8 * msg.length)
  msg ++ [0x80#8] ++ List.replicate ((119 - msg.length % 64) % 64) 0x00#8
    ++ shaBytesOfWord (l.extractLsb' 32 32) ++ shaBytesOfWord (l.extractLsb' 0 32)

/-- `n` blocks, in order (rule R141). -/
def shaBlocks : Nat → ShaWords → List Byte → ShaWords
  | 0, h, _ => h
  | n + 1, h, bytes => shaBlocks n (shaBlock h (bytes.take 64)) (bytes.drop 64)

/-- `SHA-256(msg)`: 32 bytes (rule R141). -/
def sha256 (msg : List Byte) : List Byte :=
  let p := shaPad msg
  let h := shaBlocks (p.length / 64) shaInit p
  [h.a, h.b, h.c, h.d, h.e, h.f, h.g, h.h].flatMap shaBytesOfWord

/-- The first eight bytes of a digest as a big-endian number (rule R140). -/
def seedOfDigest (d : List Byte) : DWord :=
  (d.take 8).foldl (fun v b => v * 256#64 + b.setWidth 64) 0#64

/-- `derive_seed` of a key given as its UTF-8 bytes (rule R140). -/
def deriveSeedBytes (key : List Byte) : DWord := seedOfDigest (sha256 key)

/-- The UTF-8 bytes of a string, as they are: no normalisation (rule R140; spec/92_eei_decisions.md D28). -/
def utf8Bytes (s : String) : List Byte := s.toUTF8.toList.map fun u => BitVec.ofNat 8 u.toNat

/-- `derive_seed(key)` (rule R140): an absent key is the empty string. -/
def deriveSeed (key : Option String) : DWord := deriveSeedBytes (utf8Bytes (key.getD ""))

end Sys2Proof.Machine
end

