-- ==== Sys2Proof/Machine/Script.lean ====
section
/-! DEFINITION. The host script notation: its lines and pseudo-instructions with their expansions (spec/30_encoding.md rules R97,
R98), and the host's mapping of mode strings (rule R99). No step uses this file: it says which transactions a program is. -/

namespace Sys2Proof.Machine

/-- A line of a host script (rules R97, R98). -/
inductive ScriptLine where
  | csrw (r : Csr) (v : Word)
  | csrr (r : Csr)
  | cmd (i : Instr)
  | pixw (a : Nat) (v : Byte)
  | pixr (a : Nat)
  | pbw (j : Nat) (v : Byte)
  | pbr (j : Nat)
  | rbr (j : Nat)
  | seed (v : DWord)
  | key (k : Option String)
  | payload (bytes : List Byte)
  | fill (w h : Nat) (r g b a : Byte)
  | crcBytes (bytes : List Byte)
  deriving DecidableEq, Repr

/-- `CsrWrite(offset of r, v)`. -/
def csrWriteTxn (r : Csr) (v : Word) : HostTxn := .csrWrite .word r.offset v

/-- `cmd i` is `CsrWrite(0x00, word)` (rule R97). -/
def cmdTxn (i : Instr) : HostTxn := csrWriteTxn .cmd (encode i)

/-- `seed v64` (rule R98): the low half first. -/
def seedTxns (v : DWord) : List HostTxn :=
  [csrWriteTxn .seedLo (v.extractLsb' 0 32), csrWriteTxn .seedHi (v.extractLsb' 32 32)]

/-- Write bytes to PBUF from address `j` on (rule R98, `payload`). -/
def pbwTxns : Nat → List Byte → List HostTxn
  | _, [] => []
  | j, b :: r => .pbufWrite j b :: pbwTxns (j + 1) r

/-- The four bytes of pixel `p` (rule R98, `fill`). -/
def pixelTxns (r g b a : Byte) (p : Nat) : List HostTxn :=
  [.pixWrite (4 * p) r, .pixWrite (4 * p + 1) g, .pixWrite (4 * p + 2) b, .pixWrite (4 * p + 3) a]

/-- The transactions a line stands for (rules R97, R98). -/
def ScriptLine.expand : ScriptLine → List HostTxn
  | .csrw r v => [csrWriteTxn r v]
  | .csrr r => [.csrRead .word r.offset]
  | .cmd i => [cmdTxn i]
  | .pixw a v => [.pixWrite a v]
  | .pixr a => [.pixRead a]
  | .pbw j v => [.pbufWrite j v]
  | .pbr j => [.pbufRead j]
  | .rbr j => [.rbufRead j]
  | .seed v => seedTxns v
  | .key k => seedTxns (deriveSeed k)
  | .payload bytes => pbwTxns 0 bytes ++ [csrWriteTxn .plen (BitVec.ofNat 32 bytes.length)]
  | .fill w h r g b a =>
    [csrWriteTxn .width (BitVec.ofNat 32 w), csrWriteTxn .height (BitVec.ofNat 32 h)]
      ++ (List.range (w * h)).flatMap (pixelTxns r g b a)
  | .crcBytes bytes => bytes.map fun b => cmdTxn (.crcByte b)

/-- The state with a script's transactions still to be performed, after those that wait already. -/
def State.withScript (lines : List ScriptLine) (s : State) : State :=
  { s with inbox := s.inbox ++ lines.flatMap ScriptLine.expand }

/-- The host's mapping of the mode string (rule R99): `SEQ` is Sequential; no mode given, or `RNG`, is the default, Random. What
the host does with any other string the spec does not say: none (log entry 12). -/
def modeOfString : Option String → Option Mode
  | none => some .rng
  | some s => if s = "SEQ" then some .seq else if s = "RNG" then some .rng else none

end Sys2Proof.Machine
end

