-- ==== Sys2Proof/Safety.lean ====
section
/-! DEFINITION. What counts as a safe state and a safe run, and the words the claims are said in: the invariant of
spec/10_state.md rule R51 and what it rests on, the refusals of spec/20_memory.md rule R73, the bit source of
spec/46_extract.md rule R200 as a list. -/

namespace Sys2Proof.Machine

/-- The invariant: rule R51 (a) to (f) as far as the state alone can say it, with what makes it inductive. -/
structure State.Inv (s : State) : Prop where
  /-- The configuration is within the bounds of rule R5. -/
  cfg_wf : s.cfg.wf = true
  pix_wf : s.pix.wf = true
  pbuf_wf : s.pbuf.wf = true
  rbuf_wf : s.rbuf.wf = true
  pix_below : s.pix.below (spaceSize s.cfg .pix) = true
  pbuf_below : s.pbuf.below (spaceSize s.cfg .pbuf) = true
  rbuf_below : s.rbuf.below (spaceSize s.cfg .rbuf) = true
  /-- At most one of `DONE`, `ERR`, `GATEWAIT` is 1 (rule R25). -/
  done_err : ¬ (s.done = true ∧ s.err = true)
  /-- R51 (b): `RUN = GATEWAIT` implies `DONE = ERR = RVALID = 0`. -/
  gate_flags : s.run = .gatewait → s.done = false ∧ s.err = false ∧ s.rvalid = false
  /-- R51 (f). -/
  err_code : s.err = true ↔ s.errcode ≠ 0x00#8
  /-- Codes 9 to 255 are never produced (rule R225). -/
  code_known : s.errcode.toNat ≤ 8
  /-- R51 (a), less the CRC of RBUF. -/
  valid : s.rvalid = true →
    s.run = .idle ∧ s.bitpos = 64 + 8 * s.flen.toNat ∧ s.flen.toNat ≤ s.cfg.rbufSize
  /-- R51 (b): where the suspended EXTRACT stands (rule R204). -/
  gate_at : s.run = .gatewait →
    s.bitpos = 32 ∧ s.seqCnt = 11 ∧ s.crcAcc = 0xFFFFFFFF#32 ∧ s.trip.p = 7#3 ∧ s.crcok = false ∧ s.errcode = 0x00#8
  /-- R51 (b): the gate's condition (rule R204). -/
  gate_cond : s.run = .gatewait → s.gateEn = true ∧ s.gateThr.toNat < s.flen.toNat
  /-- While suspended the latches equal the registers they were taken from (rules R62, R69). -/
  gate_latch : s.run = .gatewait → s.sw = s.width ∧ s.sh = s.height
  /-- R51 (c). -/
  count : s.seqCnt ≤ s.sw.toNat * s.sh.toNat
  /-- The sequencer's image fits PIX (rule R161). -/
  latch_fits : s.sw.toNat * s.sh.toNat ≤ s.cfg.maxPixels
  /-- R51 (d). -/
  used_random : s.smode = .rng →
    s.used.length = s.seqCnt ∧ s.used.Nodup ∧ ∀ xy ∈ s.used, xy.1 < s.sw.toNat ∧ xy.2 < s.sh.toNat
  /-- `USED` is neither read nor written in Sequential mode (rule R47). -/
  used_sequential : s.smode = .seq → s.used = []
  /-- R51 (e). -/
  cursor : s.bitpos ≤ 64 + 8 * s.flen.toNat

/-- The image is at least 1 by 1 and fits PIX (rule R161, `check_dims` passes). -/
def State.DimsOk (s : State) : Prop :=
  1 ≤ s.width.toNat ∧ 1 ≤ s.height.toNat ∧ s.width.toNat * s.height.toNat ≤ s.cfg.maxPixels

/-- `(SEQ_X, SEQ_Y)` is inside an image that fits PIX (rule R182, `check_xy` passes). -/
def State.XyOk (s : State) : Prop :=
  s.width.toNat * s.height.toNat ≤ s.cfg.maxPixels ∧ s.seqX.toNat < s.width.toNat ∧ s.seqY.toNat < s.height.toNat

/-- The payload `PBUF[0 .. n-1]`. -/
def State.payload (s : State) (n : Nat) : List Byte := (List.range n).map s.pbuf.read

/-- The recovered bytes `RBUF[0 .. n-1]`. -/
def State.recovered (s : State) (n : Nat) : List Byte := (List.range n).map s.rbuf.read

/-- The data bit of channel `k` of the pixel at a coordinate (rules R62, R66). -/
def State.lsbAt (s : State) (xy : Coord) (k : Nat) : Bool := lsb (s.pix.read (s.pixAddr xy.1 xy.2 k))

/-- The bits the pixels at these coordinates give, R, G, B of each in order (rule R200). -/
def State.sourceBits (s : State) (cs : List Coord) : List Bool :=
  cs.flatMap fun xy => [s.lsbAt xy 0, s.lsbAt xy 1, s.lsbAt xy 2]

/-- The length a bit source begins with: its first 32 bits, most significant first (rules R201, R202). -/
def streamLength (bits : List Bool) : Nat := bytesOf (bits.take 32)

/-- `n` bytes of a bit source, from its first bit on (rule R201). -/
def streamBytes (bits : List Bool) (n : Nat) : List Byte :=
  (List.range n).map fun j => BitVec.ofNat 8 (bytesOf ((bits.drop (8 * j)).take 8))

/-- The 32-bit field of a bit source that follows `n` bytes (rule R203). -/
def streamTrailer (bits : List Bool) (n : Nat) : Word := BitVec.ofNat 32 (bytesOf ((bits.drop (8 * n)).take 32))

/-- What EXTRACT and GATE_YES leave when the pixels of the image run out, from `s` to `t` (rules R200, R203, R211 (a)):
`SeqExhausted`, every bit of the image pulled, no payload, nothing compared. -/
structure State.RanOut (s t : State) : Prop where
  raised : t.err = true ∧ t.done = false ∧ t.errcode = 4#8 ∧ t.run = .idle
  no_payload : t.rvalid = false ∧ t.crcok = false
  all_pulled : t.bitpos = 3 * (s.width.toNat * s.height.toNat) ∧ t.seqCnt = s.width.toNat * s.height.toNat
  crc_exp_kept : t.crcExp = s.crcExp
  memories_kept : t.pix = s.pix ∧ t.pbuf = s.pbuf

/-- The `k`-th draw of a generator, counting from 0, if every `range` call up to it ends (rule R164). -/
def drawAt (g : Prng) (sw sh : Nat) : Nat → Nat → Option (Coord × Nat)
  | 0, st => drawCoord g sw sh st
  | k + 1, st =>
    match drawCoord g sw sh st with
    | some (_, st1) => drawAt g sw sh k st1
    | none => none

/-- The refusals of rule R73, transaction by transaction. -/
def RefusalListed (t : HostTxn) (s : State) : Prop :=
  match t with
  | .csrRead wd off => wd ≠ .word ∨ off % 4 ≠ 0 ∨ 0x58 ≤ off
  | .csrWrite wd off _ =>
    wd ≠ .word ∨ off % 4 ≠ 0 ∨ 0x58 ≤ off ∨ off = 0x04 ∨ off = 0x08 ∨ (0x38 ≤ off ∧ off ≤ 0x54)
      ∨ (off ≠ 0x00 ∧ s.run = .gatewait)
  | .pixRead a => 4 * s.cfg.maxPixels ≤ a
  | .pixWrite a _ => 4 * s.cfg.maxPixels ≤ a ∨ s.run = .gatewait
  | .pbufRead j => s.cfg.pbufSize ≤ j
  | .pbufWrite j _ => s.cfg.pbufSize ≤ j ∨ s.run = .gatewait
  | .rbufRead j => s.rvalid = false ∨ s.flen.toNat ≤ j ∨ s.cfg.rbufSize ≤ j
  | .rbufWrite _ _ => True

end Sys2Proof.Machine
end

