-- ==== Sys2Proof/Certificates/Slice0/Obligations.lean ====
section
/-! DEFINITION. The statements for the provers. Each docstring names the rule of spec/ it formalises, or says what it rests on. -/

open Sys2Proof Sys2Proof.Machine

/-! ## Encoding and the step -/

/-- Rules R91, R93: the words of the opcode map and of the vectors V-D1 to V-D14 decode to the commands they stand for. -/
def Obligations.SpecWordsDecode : Prop :=
  decode 0x00000000#32 = .ok .nop ∧ decode 0x00000001#32 = .ok .clr ∧ decode 0x00000010#32 = .ok .crcInit ∧
  decode 0x00680011#32 = .ok (.crcByte 0x68#8) ∧ decode 0x00FF0011#32 = .ok (.crcByte 0xFF#8) ∧
  decode 0x00000011#32 = .ok (.crcByte 0x00#8) ∧
  decode 0x00000012#32 = .ok .crcBuf ∧ decode 0x00000013#32 = .ok .crcChk ∧
  decode 0x00000020#32 = .ok (.seqInit .rng) ∧ decode 0x00000120#32 = .ok (.seqInit .seq) ∧
  decode 0x00000021#32 = .ok .seqNext ∧ decode 0x00000030#32 = .ok .muxWr ∧ decode 0x00000031#32 = .ok .muxRd ∧
  decode 0x00000040#32 = .ok (.embed .rng) ∧ decode 0x00000140#32 = .ok (.embed .seq) ∧
  decode 0x00000041#32 = .ok (.extract .rng) ∧ decode 0x00000141#32 = .ok (.extract .seq) ∧
  decode 0x00000042#32 = .ok .gateYes ∧ decode 0x00000043#32 = .ok .gateNo

/-- Rules R91 to R93: decoding the word of a command gives the command back, with every operand at every value. -/
def Obligations.DecodeOfEncodeIsTheCommand : Prop :=
  ∀ i : Instr, i.wf = true → decode (encode i) = .ok i

/-- Rules R91 to R94: a word that decodes to a command is the word of that command, so each command has one word. -/
def Obligations.EncodeOfDecodeIsTheWord : Prop :=
  ∀ (w : Word) (i : Instr), decode w = .ok i → encode i = w

/-- Rules R93, R94: the decoder accepts a word exactly when it matches a row of the match and mask table, no word matches two
rows, and the command is that of the row. -/
def Obligations.DecoderFollowsTheOpcodeMap : Prop :=
  ∀ w : Word,
    (∀ i, decode w = .ok i →
      ∃ r, opTable.filter (·.hits w) = [r] ∧ r.mnemonic = i.mnemonic ∧ r.format = i.format) ∧
    (∀ e, decode w = .error e → opTable.filter (·.hits w) = [])

/-- Rules R24, R72, R96 and the model's inbox (log entry 1): when the host's next transaction is a write to `CMD` of a word that
decodes to `i`, the step is `exec i` at that state with the transaction taken and answered; and the word placed by
`withFetchWord` is such a write. -/
def Obligations.StepRunsTheDecodedCommand : Prop :=
  (∀ (s : State) (w : Word) (rest : List HostTxn) (i : Instr),
    s.inbox = .csrWrite .word 0x00 w :: rest → decode w = .ok i →
    step s = exec i { s with inbox := rest, answer := .performed }) ∧
  (∀ (s : State) (i : Instr), i.wf = true →
    step (s.withFetchWord 32 (encode i).toNat) = exec i { s with answer := .performed }) ∧
  (∀ s : State, s.inbox = [] → step s = .next s)

/-- Rules R94, R96, R232: a word that matches no row of the opcode map, written to `CMD` in any state, raises `IllegalCommand`:
the four writes of rule R226 and nothing else (the transaction itself is taken and answered). -/
def Obligations.IllegalWordChangesOnlyTheErrorState : Prop :=
  ∀ (s : State) (w : Word) (rest : List HostTxn),
    s.inbox = .csrWrite .word 0x00 w :: rest → legalWord w = false →
    step s = .next { s with inbox := rest, answer := .performed,
                            run := .idle, done := false, err := true, errcode := 5#8 }

/-- Rule R95: GATE_YES and GATE_NO in `IDLE`, and every command but NOP, CLR, GATE_YES and GATE_NO in `GATEWAIT`, raise
`IllegalCommand` before the prologue. -/
def Obligations.MisplacedCommandEntersIllegalCommand : Prop :=
  ∀ (s : State) (i : Instr),
    ((s.run = .idle ∧ (i = .gateYes ∨ i = .gateNo)) ∨
     (s.run = .gatewait ∧ i ≠ .nop ∧ i ≠ .clr ∧ i ≠ .gateYes ∧ i ≠ .gateNo)) →
    exec i s = .next { s with run := .idle, done := false, err := true, errcode := 5#8 }

/-! ## Reset and the invariant -/

/-- Rules R52, R260: after reset every register reads, and every hidden field holds, the value of the table; the memories and
`PRNG_S` are whatever the launch state has. -/
def Obligations.ResetLeavesTheTableOfValues : Prop :=
  ∀ (c : Config) (pix pbuf rbuf : Memory) (p : Nat),
    let s := State.launch c pix pbuf rbuf p
    readCsr s .status = 0x00000000#32 ∧ readCsr s .errcode = 0x00000000#32 ∧ readCsr s .ctrl = 0x00000001#32 ∧
    readCsr s .width = 0x00000000#32 ∧ readCsr s .height = 0x00000000#32 ∧ readCsr s .plen = 0x00000000#32 ∧
    readCsr s .gateThr = 0x00100000#32 ∧ readCsr s .seedHi = 0xE3B0C442#32 ∧ readCsr s .seedLo = 0x98FC1C14#32 ∧
    readCsr s .crcExp = 0x00000000#32 ∧ readCsr s .seqX = 0x00000000#32 ∧ readCsr s .seqY = 0x00000000#32 ∧
    readCsr s .trip = 0x00000000#32 ∧ readCsr s .crcAcc = 0xFFFFFFFF#32 ∧ readCsr s .crcVal = 0x00000000#32 ∧
    readCsr s .flen = 0x00000000#32 ∧ readCsr s .rlen = 0x00000000#32 ∧ readCsr s .seqCntLo = 0x00000000#32 ∧
    readCsr s .seqCntHi = 0x00000000#32 ∧ readCsr s .bitposLo = 0x00000000#32 ∧ readCsr s .bitposHi = 0x00000000#32 ∧
    s.run = .idle ∧ s.sw = 0x00000000#32 ∧ s.sh = 0x00000000#32 ∧ s.smode = .rng ∧ s.used = [] ∧
    s.pix = pix ∧ s.pbuf = pbuf ∧ s.rbuf = rbuf ∧ s.prngS = p

/-- Rules R32, R140, R141: the seed after reset is `derive_seed` of the absent key and of the empty string; and the worked value
of the key "secret". -/
def Obligations.ResetSeedIsTheSeedOfTheEmptyKey : Prop :=
  (∀ (c : Config) (pix pbuf rbuf : Memory) (p : Nat), (State.launch c pix pbuf rbuf p).seed = deriveSeed none) ∧
  deriveSeed none = deriveSeed (some "") ∧ deriveSeed (some "secret") = 0x2BB80D537B1DA3E3#64

/-- Rule R51: the invariant holds after reset, for every configuration within its bounds and every contents of the memories. -/
def Obligations.InvariantHoldsAfterReset : Prop :=
  ∀ (c : Config) (pix pbuf rbuf : Memory) (p : Nat),
    c.wf = true → pix.wf = true → pbuf.wf = true → rbuf.wf = true →
    pix.below (4 * c.maxPixels) = true → pbuf.below c.pbufSize = true → rbuf.below c.rbufSize = true →
    (State.launch c pix pbuf rbuf p).Inv

/-- Rule R51: every step, from every state that meets the invariant, whatever the host asks for, leaves a state that meets it:
the memories keep their canonical form, the flags exclude each other, `ERR` agrees with `ERRCODE`, `SEQ_CNT` stays within the
image, `USED` has exactly `SEQ_CNT` distinct coordinates of it, `BITPOS` stays within the frame, and `RVALID` and `GATEWAIT`
mean what the rule says. -/
def Obligations.EveryStepKeepsTheInvariant : Prop :=
  ∀ s t : State, s.Inv → step s = .next t → t.Inv

/-- Rules R22, R40, R41 (log entry 8): the two counters, natural numbers in the model, fit the 64 bits the registers have. -/
def Obligations.CountersFitTheirRegisters : Prop :=
  ∀ s : State, s.Inv → s.seqCnt < 18446744073709551616 ∧ s.bitpos < 18446744073709551616

/-- Rules R168, R62 (log entries 7, 10): from a state that meets the invariant every command ends with a next state, but that
the Random traversal may hang; no command is refused as having no meaning, and no access leaves a memory. -/
def Obligations.OnlyTheRandomTraversalStops : Prop :=
  ∀ (s : State) (i : Instr), s.Inv →
    (∃ t, exec i s = .next t) ∨
    (exec i s = .fault .hang ∧
      (i = .embed .rng ∨ i = .extract .rng ∨ ((i = .seqNext ∨ i = .gateYes) ∧ s.smode = .rng)))

/-! ## Flags -/

/-- Rules R25, R42: the fields of `STATUS`; bits 31:8 read 0. -/
def Obligations.StatusFieldsFollowTheState : Prop :=
  ∀ s : State,
    let w := readCsr s .status
    w.getLsbD 0 = s.done ∧ w.getLsbD 1 = s.err ∧ (w.getLsbD 2 = true ↔ s.run = .gatewait) ∧ w.getLsbD 3 = s.rvalid ∧
    w.getLsbD 4 = s.crcok ∧ (w.getLsbD 5 = true ↔ s.smode = .seq) ∧
    (w.extractLsb' 6 2).toNat =
      (if s.bitpos < 32 then 0 else if s.bitpos < 32 + 8 * s.flen.toNat then 1
       else if s.bitpos < 64 + 8 * s.flen.toNat then 2 else 3) ∧
    w.extractLsb' 8 24 = 0#24

/-- Rule R25: after any command other than NOP and CLR exactly one of `DONE`, `ERR`, `GATEWAIT` is 1. -/
def Obligations.ExactlyOneOutcomeFlagAfterACommand : Prop :=
  ∀ (s t : State) (i : Instr), i ≠ .nop → i ≠ .clr → exec i s = .next t →
    (t.done = true ∧ t.err = false ∧ t.run = .idle) ∨ (t.done = false ∧ t.err = true ∧ t.run = .idle) ∨
    (t.done = false ∧ t.err = false ∧ t.run = .gatewait)

/-! ## Control commands -/

/-- Rule R215: NOP changes no state at all, in `IDLE` and in `GATEWAIT`. -/
def Obligations.NopChangesNothing : Prop :=
  ∀ s : State, exec .nop s = .next s

/-- Rule R216: CLR completes in every `RUN` with every result and working register at its reset value, `DONE` 0, and
configuration, PIX, PBUF and RBUF kept. `PRNG_S` and the counter of free values are anything (log entry 5). -/
def Obligations.ClrLeavesResetValuesAndKeepsConfiguration : Prop :=
  ∀ s : State, ∃ p n : Nat, exec .clr s = .next
    { s with done := false, err := false, errcode := 0x00#8, run := .idle, rvalid := false, crcok := false,
             crcAcc := 0xFFFFFFFF#32, crcExp := 0x00000000#32, seqX := 0x00000000#32, seqY := 0x00000000#32,
             trip := { v := 0#3, p := 0#3 }, flen := 0x00000000#32, bitpos := 0, seqCnt := 0,
             sw := 0x00000000#32, sh := 0x00000000#32, smode := .rng, used := [], prngS := p, freeCtr := n }

/-! ## The CRC unit and the frame -/

/-- Rule R127: CRC_INIT. -/
def Obligations.CrcInitLoadsAllOnes : Prop :=
  ∀ s : State, s.run = .idle →
    exec .crcInit s = .next { s with done := true, err := false, errcode := 0x00#8, crcAcc := 0xFFFFFFFF#32 }

/-- Rule R128: CRC_BYTE, and the `crc_update` of rule R124 written out as eight steps. -/
def Obligations.CrcByteFoldsTheImmediate : Prop :=
  ∀ (s : State) (b : Byte), s.run = .idle →
    exec (.crcByte b) s =
      .next { s with done := true, err := false, errcode := 0x00#8,
                     crcAcc := (List.range 8).foldl
                       (fun a _ => if a.getLsbD 0 then (a >>> 1) ^^^ 0xEDB88320#32 else a >>> 1)
                       (s.crcAcc ^^^ b.setWidth 32) }

/-- Rule R129: CRC_BUF folds `PBUF[0 .. PLEN-1]`, or raises `BufferRange` before any byte is folded. -/
def Obligations.CrcBufFoldsThePayload : Prop :=
  ∀ s : State, s.run = .idle →
    (s.plen.toNat ≤ s.cfg.pbufSize →
      exec .crcBuf s = .next { s with done := true, err := false, errcode := 0x00#8,
                                      crcAcc := (s.payload s.plen.toNat).foldl crcUpdate s.crcAcc }) ∧
    (s.cfg.pbufSize < s.plen.toNat →
      exec .crcBuf s = .next { s with run := .idle, done := false, err := true, errcode := 7#8 })

/-- Rule R130: CRC_CHK. -/
def Obligations.CrcChkComparesTheFinalisedCrc : Prop :=
  ∀ s : State, s.run = .idle →
    (s.crcAcc ^^^ 0xFFFFFFFF#32 = s.crcExp →
      exec .crcChk s = .next { s with done := true, err := false, errcode := 0x00#8, crcok := true }) ∧
    (s.crcAcc ^^^ 0xFFFFFFFF#32 ≠ s.crcExp →
      exec .crcChk s = .next { s with run := .idle, done := false, err := true, errcode := 2#8, crcok := false })

/-- Rule R124, the table form: `crc_update(acc, b) = T[(acc xor b)[7:0]] xor (acc >> 8)`, `T[i]` the eight steps applied to `i`. -/
def Obligations.CrcUpdateEqualsItsTableForm : Prop :=
  ∀ (acc : Word) (b : Byte),
    crcUpdate acc b = crcSteps 8 (((acc ^^^ b.setWidth 32) &&& 0xFF#32)) ^^^ (acc >>> 8)

/-- Rule R131: CRC-32 detects every change of a single bit of the payload. -/
def Obligations.CrcDetectsEverySingleBitChange : Prop :=
  ∀ (p : List Byte) (j k : Nat), j < p.length → k < 8 →
    crc32 (p.set j (p.getD j 0x00#8 ^^^ BitVec.twoPow 8 k)) ≠ crc32 p

/-- Rule R113: `bytes_of` undoes `bits_of` for a byte and for a big-endian 32-bit field, and dropping the Absent slots of a
batch gives the stream back. -/
def Obligations.BitStreamFunctionsAreInverse : Prop :=
  (∀ v : Byte, bytesOf (bitsOf [v]) = v.toNat) ∧
  (∀ v : Word, bytesOf (bitsOf (be32 v)) = v.toNat) ∧
  (∀ a b : List Byte, bitsOf (a ++ b) = bitsOf a ++ bitsOf b) ∧
  (∀ (b : List Bool) (n : Nat), 1 ≤ n →
    (batch b n).flatten.filterMap (fun x => match x with | .bit v => some v | .absent => none) = b)

/-- Rules R120 to R122: the frame has `8 * (L + 8)` bits and bit `i` of it is `frame_bit(P, i)`. -/
def Obligations.FrameBitsAreTheBitsOfTheFrame : Prop :=
  ∀ p : List Byte, p.length < 4294967296 →
    (bitsOf (frame p)).length = 8 * (p.length + 8) ∧
    ∀ i, i < 8 * (p.length + 8) → (bitsOf (frame p))[i]? = some (frameBit p i)

/-- Rule R190: the triplets EMBED writes are exactly `batch(bits_of(frame(P)), 3)`. -/
def Obligations.EmbedTripletsAreTheBatchOfTheFrame : Prop :=
  ∀ (p : List Byte) (k j : Nat), p.length < 4294967296 → j < 3 → k < ceilDiv (8 * (p.length + 8)) 3 →
    ((batch (bitsOf (frame p)) 3).getD k []).getD j .absent =
      (frameTrip p (crc32 p) (8 * (p.length + 8)) k).slot j

/-! ## The generator and the sequencer -/

/-- Rules R143 (L2), R146, R147: `REF_PRNG.range` ends within `n` draws and gives a value below `n`; so does every other
generator of a configuration. -/
def Obligations.RangeEndsAndStaysBelowItsBound : Prop :=
  ∀ (g : Prng) (st n : Nat), 1 ≤ n → n < 4294967296 →
    ∃ v st1, prngRange g st n = some (v, st1) ∧ v < n

/-- Rule R168 (log entry 7): for `REF_PRNG` a request the model stops as a hang is one that no number of draws answers. -/
def Obligations.HangOfTheReferenceGeneratorIsExact : Prop :=
  ∀ (sw sh st fuel : Nat) (used : List Coord),
    redraw .ref sw sh used drawBound st = none → redraw .ref sw sh used fuel st = none

/-- Rule R161: SEQ_INIT latches the size and the mode, loads the generator, empties `USED`, zeroes `SEQ_CNT` and leaves
`SEQ_X`, `SEQ_Y`; or raises `BadDimensions` and changes no sequencer state. -/
def Obligations.SeqInitLatchesOrRaisesBadDimensions : Prop :=
  ∀ (s : State) (m : Mode), s.run = .idle →
    (s.DimsOk →
      exec (.seqInit m) s =
        .next { s with done := true, err := false, errcode := 0x00#8, sw := s.width, sh := s.height, smode := m,
                       prngS := prngInit s.cfg.prng (s.seedHi ++ s.seedLo), used := [], seqCnt := 0 }) ∧
    (¬ s.DimsOk →
      exec (.seqInit m) s = .next { s with run := .idle, done := false, err := true, errcode := 6#8 })

/-- Rules R162, R163: SEQ_NEXT in Sequential mode. -/
def Obligations.SeqNextSequentialEmitsTheRasterCoordinate : Prop :=
  ∀ s : State, s.run = .idle → s.smode = .seq → s.seqCnt < s.sw.toNat * s.sh.toNat →
    exec .seqNext s =
      .next { s with done := true, err := false, errcode := 0x00#8, seqCnt := s.seqCnt + 1,
                     seqX := BitVec.ofNat 32 (s.seqCnt % s.sw.toNat), seqY := BitVec.ofNat 32 (s.seqCnt / s.sw.toNat) }

/-- Rules R162, R164: SEQ_NEXT in Random mode emits the first draw that is not in `USED`. Rule R168 gives no bound on the number
of draws: that the first 2^64 of them decide, and that the model stops with `hang` where none of them is fresh, is the model's
choice (log entry 7; exact for `REF_PRNG`). That the new coordinate stands in front of the list `used` is the model's form of the
set of rule R47 (log entry 9). -/
def Obligations.SeqNextRandomEmitsTheFirstFreshDraw : Prop :=
  ∀ s : State, s.run = .idle → s.smode = .rng → s.seqCnt < s.sw.toNat * s.sh.toNat →
    (∀ (k x y st : Nat), k < 18446744073709551616 →
      drawAt s.cfg.prng s.sw.toNat s.sh.toNat k s.prngS = some ((x, y), st) → (x, y) ∉ s.used →
      (∀ j, j < k → ∃ xy st1, drawAt s.cfg.prng s.sw.toNat s.sh.toNat j s.prngS = some (xy, st1) ∧ xy ∈ s.used) →
      exec .seqNext s =
        .next { s with done := true, err := false, errcode := 0x00#8, seqCnt := s.seqCnt + 1,
                       seqX := BitVec.ofNat 32 x, seqY := BitVec.ofNat 32 y, prngS := st, used := (x, y) :: s.used }) ∧
    ((∀ j, j < 18446744073709551616 →
        ∃ xy st1, drawAt s.cfg.prng s.sw.toNat s.sh.toNat j s.prngS = some (xy, st1) ∧ xy ∈ s.used) →
      exec .seqNext s = .fault .hang)

/-- Rule R167: a request when every coordinate has been emitted raises `SeqExhausted` and changes nothing else. -/
def Obligations.SeqNextAtTheEndRaisesSeqExhausted : Prop :=
  ∀ s : State, s.run = .idle → s.sw.toNat * s.sh.toNat ≤ s.seqCnt →
    exec .seqNext s = .next { s with run := .idle, done := false, err := true, errcode := 4#8 }

/-- Rule R163: the Sequential traversal is raster order and ends after `W * H` coordinates. -/
def Obligations.SequentialTraversalIsRasterOrder : Prop :=
  ∀ (s : State) (n : Nat),
    (n ≤ s.width.toNat * s.height.toNat →
      traversal .seq n s = some ((List.range n).map fun k => (k % s.width.toNat, k / s.width.toNat))) ∧
    (s.width.toNat * s.height.toNat < n → traversal .seq n s = none)

/-- Rule R166: between one `seq_init` and the next the coordinates are distinct and inside the image, in both modes and with
every generator. -/
def Obligations.TraversalNeverRepeatsACoordinate : Prop :=
  ∀ (s : State) (m : Mode) (n : Nat) (cs : List Coord), traversal m n s = some cs →
    cs.length = n ∧ cs.Nodup ∧ ∀ xy ∈ cs, xy.1 < s.width.toNat ∧ xy.2 < s.height.toNat

/-- Rule R144: the coordinate sequence is a function of `(SEED, WIDTH, HEIGHT, M)` and `PRNG` alone. -/
def Obligations.TraversalDependsOnlyOnSeedSizeAndMode : Prop :=
  ∀ (s t : State) (m : Mode) (n : Nat), s.cfg.prng = t.cfg.prng → s.seedHi = t.seedHi → s.seedLo = t.seedLo →
    s.width = t.width → s.height = t.height → traversal m n s = traversal m n t

/-- Rules R142, R163 (spec/92_eei_decisions.md D36): in Sequential mode the seed affects nothing but itself and the unread `PRNG_S`. -/
def Obligations.SeedIsIrrelevantInSequentialMode : Prop :=
  ∀ (s t : State) (i : Instr) (lo hi : Word), i = .seqInit .seq ∨ i = .embed .seq ∨ i = .extract .seq →
    exec i s = .next t →
    ∃ p, exec i { s with seedLo := lo, seedHi := hi } = .next { t with seedLo := lo, seedHi := hi, prngS := p }

/-! ## The multiplexer -/

/-- Rules R176, R178, R182: MUX_WR replaces bit 0 of the channel of every present slot and nothing else; or raises `PixelRange`
before any access. -/
def Obligations.MuxWrWritesThePresentSlots : Prop :=
  ∀ s : State, s.run = .idle →
    (s.XyOk → s.pix.wf = true →
      ∃ q : Memory, exec .muxWr s = .next { s with done := true, err := false, errcode := 0x00#8, pix := q } ∧
        (∀ k, k < 3 → s.trip.p.getLsbD k = true →
          q.read (4 * (s.seqY.toNat * s.width.toNat + s.seqX.toNat) + k) =
            (s.pix.read (4 * (s.seqY.toNat * s.width.toNat + s.seqX.toNat) + k) &&& 0xFE#8) |||
              (if s.trip.v.getLsbD k then 1#8 else 0#8)) ∧
        (∀ a, (∀ k, k < 3 → s.trip.p.getLsbD k = true →
            a ≠ 4 * (s.seqY.toNat * s.width.toNat + s.seqX.toNat) + k) → q.read a = s.pix.read a)) ∧
    (¬ s.XyOk → exec .muxWr s = .next { s with run := .idle, done := false, err := true, errcode := 8#8 })

/-- Rules R177, R179, R182: MUX_RD gives the three LSBs, every slot present, and changes nothing else; or raises `PixelRange`. -/
def Obligations.MuxRdReadsTheThreeLsbs : Prop :=
  ∀ s : State, s.run = .idle →
    (s.XyOk →
      ∃ t : Trip, exec .muxRd s = .next { s with done := true, err := false, errcode := 0x00#8, trip := t } ∧
        t.p = 7#3 ∧
        ∀ k, k < 3 → t.v.getLsbD k =
          (s.pix.read (4 * (s.seqY.toNat * s.width.toNat + s.seqX.toNat) + k)).getLsbD 0) ∧
    (¬ s.XyOk → exec .muxRd s = .next { s with run := .idle, done := false, err := true, errcode := 8#8 })

/-- Rules R181, R192: whatever a command does to PIX, a byte keeps its bits 7:1 and an alpha byte keeps its value. -/
def Obligations.CommandsChangeOnlyColourLsbs : Prop :=
  ∀ (s t : State) (i : Instr), s.pix.wf = true → exec i s = .next t →
    ∀ a, (t.pix.read a >>> 1 = s.pix.read a >>> 1) ∧ (a % 4 = 3 → t.pix.read a = s.pix.read a)

/-! ## EMBED -/

/-- Rules R190, R192: an EMBED whose four conditions hold and whose traversal answers `ceil_div(R, 3)` requests with the
coordinates `cs` completes, with the state of the table of rule R192: the frame's bits in the LSBs of those pixels, every other
bit of PIX as before, and the traversal continuing from where it stands. -/
def Obligations.EmbedCompletesWithTheFrameInPix : Prop :=
  ∀ (s : State) (m : Mode) (cs : List Coord),
    let l := s.plen.toNat
    let r := 8 * (l + 8)
    let p := s.payload l
    s.run = .idle → s.DimsOk → s.pix.wf = true → l ≤ s.cfg.pbufSize → r ≤ 3 * s.width.toNat * s.height.toNat →
    traversal m (ceilDiv r 3) s = some cs →
    ∃ t, exec (.embed m) s = .next t ∧
      t.done = true ∧ t.err = false ∧ t.errcode = 0x00#8 ∧ t.run = .idle ∧ t.rvalid = false ∧ t.crcok = false ∧
      t.smode = m ∧ t.flen = s.plen ∧ t.crcAcc ^^^ 0xFFFFFFFF#32 = crc32 p ∧ t.bitpos = r ∧ t.seqCnt = ceilDiv r 3 ∧
      (∀ x y, cs.getLast? = some (x, y) → t.seqX = BitVec.ofNat 32 x ∧ t.seqY = BitVec.ofNat 32 y) ∧
      t.trip.p = (if l % 3 = 0 then 1#3 else if l % 3 = 1 then 7#3 else 3#3) ∧
      t.sw = s.width ∧ t.sh = s.height ∧
      (∀ k ds, traversal m (ceilDiv r 3 + k) s = some (cs ++ ds) → coordsFrom k t = some ds) ∧
      t.crcExp = s.crcExp ∧ t.rbuf = s.rbuf ∧ t.pbuf = s.pbuf ∧
      (∀ i, i < r → ∀ x y, cs[i / 3]? = some (x, y) →
        (t.pix.read (4 * (y * s.width.toNat + x) + i % 3)).getLsbD 0 = frameBit p i) ∧
      (∀ a, t.pix.read a >>> 1 = s.pix.read a >>> 1) ∧
      (∀ a, (∀ i, i < r → ∀ x y, cs[i / 3]? = some (x, y) → a ≠ 4 * (y * s.width.toNat + x) + i % 3) →
        t.pix.read a = s.pix.read a)

/-- Rules R191, R194: in Sequential mode an EMBED that passes the first two checks completes exactly when
`8 * (L + 8) <= 3 * W * H`; the traversal cannot run out. -/
def Obligations.SequentialEmbedCompletesExactlyWithinCapacity : Prop :=
  ∀ s : State, s.run = .idle → s.DimsOk → s.plen.toNat ≤ s.cfg.pbufSize →
    ∃ t, exec (.embed .seq) s = .next t ∧
      (t.done = true ↔ 8 * (s.plen.toNat + 8) ≤ 3 * s.width.toNat * s.height.toNat) ∧
      (t.done = false → t.err = true ∧ t.errcode = 1#8)

/-- Rules R190, R193, R228: the three errors of EMBED in their order, each before `seq_init` and before the first access to PIX:
what has changed is the macro prologue, and after `CapacityExceeded` also `FLEN` and `CRC_ACC`. -/
def Obligations.EmbedErrorsLeavePixAndSequencerAlone : Prop :=
  ∀ (s : State) (m : Mode), s.run = .idle →
    (¬ s.DimsOk →
      exec (.embed m) s =
        .next { s with run := .idle, done := false, err := true, errcode := 6#8, bitpos := 0,
                       trip := { v := 0#3, p := 0#3 }, flen := 0x00000000#32, crcAcc := 0xFFFFFFFF#32,
                       rvalid := false, crcok := false }) ∧
    (s.DimsOk → s.cfg.pbufSize < s.plen.toNat →
      exec (.embed m) s =
        .next { s with run := .idle, done := false, err := true, errcode := 7#8, bitpos := 0,
                       trip := { v := 0#3, p := 0#3 }, flen := 0x00000000#32, crcAcc := 0xFFFFFFFF#32,
                       rvalid := false, crcok := false }) ∧
    (s.DimsOk → s.plen.toNat ≤ s.cfg.pbufSize → 3 * s.width.toNat * s.height.toNat < 8 * (s.plen.toNat + 8) →
      exec (.embed m) s =
        .next { s with run := .idle, done := false, err := true, errcode := 1#8, bitpos := 0,
                       trip := { v := 0#3, p := 0#3 }, flen := s.plen,
                       crcAcc := (s.payload s.plen.toNat).foldl crcUpdate 0xFFFFFFFF#32,
                       rvalid := false, crcok := false })

/-- Rule R195 (b): running the same EMBED twice in a row leaves PIX as after the first. -/
def Obligations.EmbedTwiceLeavesPixAsAfterTheFirst : Prop :=
  ∀ (s t : State) (m : Mode), s.pix.wf = true → exec (.embed m) s = .next t → t.done = true →
    ∃ u, exec (.embed m) t = .next u ∧ u.done = true ∧ u.pix = t.pix

/-! ## EXTRACT and the gate -/

/-- Rules R202, R203, R208: an EXTRACT whose traversal answers the requests of the length `l` it reads, past the gate and within
RBUF, puts the bytes it finds in RBUF and compares: it completes where the trailer it finds is the CRC of those bytes, and enters
`IntegrityMismatch`, with nothing readable, where it is not. -/
def Obligations.ExtractCompletesWithTheVerifiedPayload : Prop :=
  ∀ (s : State) (m : Mode) (cs : List Coord) (l : Nat),
    let bits := s.sourceBits cs
    let p := streamBytes (bits.drop 32) l
    let c := streamTrailer (bits.drop 32) l
    s.run = .idle → s.DimsOk → s.rbuf.wf = true → traversal m (ceilDiv (8 * (l + 8)) 3) s = some cs →
    streamLength bits = l → (s.gateEn = false ∨ l ≤ s.gateThr.toNat) → l ≤ s.cfg.rbufSize →
    ∃ t, exec (.extract m) s = .next t ∧
      (c = crc32 p → t.done = true ∧ t.err = false ∧ t.errcode = 0x00#8 ∧ t.rvalid = true ∧ t.crcok = true ∧
        readCsr t .rlen = t.flen) ∧
      (c ≠ crc32 p → t.done = false ∧ t.err = true ∧ t.errcode = 2#8 ∧ t.rvalid = false ∧ t.crcok = false ∧
        readCsr t .rlen = 0x00000000#32) ∧
      t.run = .idle ∧ t.smode = m ∧ t.flen.toNat = l ∧ t.crcExp = c ∧ t.crcAcc ^^^ 0xFFFFFFFF#32 = crc32 p ∧
      t.bitpos = 8 * (l + 8) ∧ t.seqCnt = ceilDiv (8 * (l + 8)) 3 ∧
      (∀ x y, cs.getLast? = some (x, y) → t.seqX = BitVec.ofNat 32 x ∧ t.seqY = BitVec.ofNat 32 y ∧
        t.trip.p = 7#3 ∧ ∀ k, k < 3 → t.trip.v.getLsbD k = s.lsbAt (x, y) k) ∧
      t.recovered l = p ∧ (∀ a, l ≤ a → t.rbuf.read a = s.rbuf.read a) ∧ t.pix = s.pix ∧ t.pbuf = s.pbuf

/-- Rules R202, R204: where the gate's condition holds EXTRACT suspends after the length field, with nothing written to RBUF. -/
def Obligations.ExtractSuspendsAboveTheThreshold : Prop :=
  ∀ (s : State) (m : Mode) (cs : List Coord),
    s.run = .idle → s.DimsOk → traversal m 11 s = some cs → s.gateEn = true →
    s.gateThr.toNat < streamLength (s.sourceBits cs) →
    ∃ t, exec (.extract m) s = .next t ∧
      t.run = .gatewait ∧ t.done = false ∧ t.err = false ∧ t.errcode = 0x00#8 ∧ t.rvalid = false ∧ t.crcok = false ∧
      t.smode = m ∧ t.flen.toNat = streamLength (s.sourceBits cs) ∧ t.bitpos = 32 ∧ t.phase = .awaitingPayload ∧
      t.seqCnt = 11 ∧ t.crcAcc = 0xFFFFFFFF#32 ∧
      (∀ x y, cs[10]? = some (x, y) → t.trip.p = 7#3 ∧ ∀ k, k < 3 → t.trip.v.getLsbD k = s.lsbAt (x, y) k) ∧
      t.rbuf = s.rbuf ∧ t.pix = s.pix ∧ t.pbuf = s.pbuf ∧ t.crcExp = s.crcExp

/-- Rules R202, R228: with bad dimensions EXTRACT raises `BadDimensions` after the macro prologue, before `seq_init`. -/
def Obligations.ExtractWithBadDimensionsStopsBeforeTheTraversal : Prop :=
  ∀ (s : State) (m : Mode), s.run = .idle → ¬ s.DimsOk →
    exec (.extract m) s =
      .next { s with run := .idle, done := false, err := true, errcode := 6#8, bitpos := 0,
                     trip := { v := 0#3, p := 0#3 }, flen := 0x00000000#32, crcAcc := 0xFFFFFFFF#32,
                     rvalid := false, crcok := false }

/-- Rules R200, R202, R203, R211 (a): where the traversal answers every coordinate of the image and bits are still needed, EXTRACT
(both modes) and GATE_YES end in `SeqExhausted`, at `BITPOS = 3 * W * H` and with no payload given: in the length field, `FLEN`
still 0, in an image of fewer than 11 pixels; otherwise, past the gate and the `RBUF_SIZE` test, exactly where the frame of the
length exceeds the image. -/
def Obligations.ExtractRunsOutOfPixelsBeyondCapacity : Prop :=
  ∀ (s : State) (cs : List Coord),
    let n := s.width.toNat * s.height.toNat
    (∀ m : Mode, s.run = .idle → s.DimsOk → traversal m n s = some cs →
      (n < 11 →
        ∃ t, exec (.extract m) s = .next t ∧ s.RanOut t ∧ t.smode = m ∧ t.flen = 0x00000000#32 ∧
          t.crcAcc = 0xFFFFFFFF#32 ∧ t.rbuf = s.rbuf) ∧
      (∀ l : Nat, 11 ≤ n → streamLength (s.sourceBits cs) = l → (s.gateEn = false ∨ l ≤ s.gateThr.toNat) →
        l ≤ s.cfg.rbufSize → 3 * n < 8 * (l + 8) →
        ∃ t, exec (.extract m) s = .next t ∧ s.RanOut t ∧ t.smode = m ∧ t.flen.toNat = l)) ∧
    (s.Inv → s.run = .gatewait → s.flen.toNat ≤ s.cfg.rbufSize → coordsFrom (n - 11) s = some cs →
      3 * n < 8 * (s.flen.toNat + 8) →
      ∃ t, exec .gateYes s = .next t ∧ s.RanOut t ∧ t.smode = s.smode ∧ t.flen = s.flen)

/-- Rules R203, R208: EXTRACT and GATE_YES yield a fully verified payload or nothing: where `RVALID` is 1 afterwards, the command
completed, `CRCOK` is 1, and the stored trailer is the CRC-32 of the bytes of RBUF the host may read. -/
def Obligations.ReadablePayloadIsVerified : Prop :=
  ∀ (s t : State) (i : Instr), s.Inv →
    ((∃ m, i = .extract m) ∧ s.run = .idle) ∨ (i = .gateYes ∧ s.run = .gatewait) →
    exec i s = .next t →
    (t.rvalid = true ↔ t.done = true) ∧
    (t.rvalid = true → t.crcok = true ∧ t.crcExp = crc32 (t.recovered t.flen.toNat) ∧
      t.crcAcc ^^^ 0xFFFFFFFF#32 = t.crcExp)

/-- Rules R203, R205, R208: GATE_YES of a suspended EXTRACT (a state that meets the invariant) whose traversal answers the rest of
its requests: it completes where the trailer is the CRC of the bytes found, and enters `IntegrityMismatch`, with nothing readable,
where it is not. Its first bit is the slot 2 that `TRIP` holds. -/
def Obligations.GateYesCompletesTheSuspendedExtract : Prop :=
  ∀ (s : State) (cs : List Coord),
    let l := s.flen.toNat
    let bits := s.trip.v.getLsbD 2 :: s.sourceBits cs
    let p := streamBytes bits l
    let c := streamTrailer bits l
    s.Inv → s.run = .gatewait → l ≤ s.cfg.rbufSize → coordsFrom (ceilDiv (8 * (l + 8)) 3 - 11) s = some cs →
    ∃ t, exec .gateYes s = .next t ∧
      (c = crc32 p → t.done = true ∧ t.err = false ∧ t.errcode = 0x00#8 ∧ t.rvalid = true ∧ t.crcok = true) ∧
      (c ≠ crc32 p → t.done = false ∧ t.err = true ∧ t.errcode = 2#8 ∧ t.rvalid = false ∧ t.crcok = false) ∧
      t.run = .idle ∧ t.smode = s.smode ∧ t.flen = s.flen ∧ t.crcExp = c ∧ t.crcAcc ^^^ 0xFFFFFFFF#32 = crc32 p ∧
      t.bitpos = 8 * (l + 8) ∧ t.seqCnt = ceilDiv (8 * (l + 8)) 3 ∧ t.recovered l = p ∧ t.pix = s.pix

/-- Rule R205: the result of GATE_YES is exactly what the EXTRACT would have given had the gate not stopped it. -/
def Obligations.GateYesGivesTheUngatedResult : Prop :=
  ∀ (s u : State) (m : Mode), exec (.extract m) s = .next u → u.run = .gatewait →
    exec (.extract m) { s with gateEn := false } =
      match exec .gateYes u with
      | .next t => .next { t with gateEn := false }
      | .fault f => .fault f
      | .refused r => .refused r

/-- Rules R203, R205, R207, R211 (d): a length above `RBUF_SIZE` raises `BufferRange` before any payload bit is pulled: in
GATE_YES, and in an EXTRACT (both modes) whose gate does not fire. -/
def Obligations.GateYesAboveTheBufferRaisesBufferRange : Prop :=
  ∀ s : State,
    (s.run = .gatewait → s.cfg.rbufSize < s.flen.toNat →
      exec .gateYes s = .next { s with run := .idle, done := false, err := true, errcode := 7#8 }) ∧
    (∀ (m : Mode) (cs : List Coord),
      let l := streamLength (s.sourceBits cs)
      s.run = .idle → s.DimsOk → traversal m 11 s = some cs → (s.gateEn = false ∨ l ≤ s.gateThr.toNat) →
      s.cfg.rbufSize < l →
      ∃ t, exec (.extract m) s = .next t ∧
        t.run = .idle ∧ t.done = false ∧ t.err = true ∧ t.errcode = 7#8 ∧ t.rvalid = false ∧ t.crcok = false ∧
        t.smode = m ∧ t.flen.toNat = l ∧ t.bitpos = 32 ∧ t.seqCnt = 11 ∧ t.crcAcc = 0xFFFFFFFF#32 ∧
        t.crcExp = s.crcExp ∧ t.rbuf = s.rbuf ∧ t.pix = s.pix ∧ t.pbuf = s.pbuf)

/-- Rule R206: GATE_NO in `GATEWAIT` ends the extraction with `UserAborted` and leaves the diagnostics; no payload is readable;
in `IDLE` it raises `IllegalCommand`. -/
def Obligations.GateNoAbortsTheExtract : Prop :=
  ∀ s : State,
    (s.run = .gatewait →
      exec .gateNo s = .next { s with run := .idle, done := false, err := true, errcode := 3#8 } ∧
      (s.Inv → s.rvalid = false)) ∧
    (s.run = .idle →
      exec .gateNo s = .next { s with run := .idle, done := false, err := true, errcode := 5#8 })

/-- Rule R210, the round trip: an EMBED whose conditions hold completes unless it hangs; and after it an EXTRACT with the same
mode, seed, size and PIX (whatever else a host or the unit commands changed in between) gives the payload back, through
GATE_YES where it suspends. -/
def Obligations.ExtractRecoversWhatEmbedWrote : Prop :=
  ∀ (s : State) (m : Mode),
    s.run = .idle → s.DimsOk → s.pix.wf = true → s.plen.toNat ≤ s.cfg.pbufSize → s.plen.toNat ≤ s.cfg.rbufSize →
    8 * (s.plen.toNat + 8) ≤ 3 * s.width.toNat * s.height.toNat →
    exec (.embed m) s = .fault .hang ∨
    ∃ t, exec (.embed m) s = .next t ∧ t.done = true ∧
      ∀ u : State, u.run = .idle → u.cfg = t.cfg → u.width = t.width → u.height = t.height → u.seedLo = t.seedLo →
        u.seedHi = t.seedHi → u.pix = t.pix → u.rbuf.wf = true →
        ∃ v, (exec (.extract m) u = .next v ∨
              ∃ g, exec (.extract m) u = .next g ∧ g.run = .gatewait ∧ exec .gateYes g = .next v) ∧
          v.done = true ∧ v.rvalid = true ∧ v.crcok = true ∧ readCsr v .rlen = s.plen ∧
          ∀ j, j < s.plen.toNat → v.rbuf.read j = s.pbuf.read j

/-- Rules R200, R268: EXTRACT depends on PIX only through the LSBs of the colour channels inside the image: another PIX with the
same ones gives the same next state but for PIX itself. -/
def Obligations.ExtractReadsOnlyColourLsbs : Prop :=
  ∀ (s t : State) (m : Mode) (q : Memory),
    (∀ x y k, x < s.width.toNat → y < s.height.toNat → k < 3 →
      (q.read (4 * (y * s.width.toNat + x) + k)).getLsbD 0 =
        (s.pix.read (4 * (y * s.width.toNat + x) + k)).getLsbD 0) →
    exec (.extract m) s = .next t → exec (.extract m) { s with pix := q } = .next { t with pix := q }

/-! ## What commands leave unchanged -/

/-- Rules R44, R48 to R50, R43 and the write lists of the command rules: the frame of every command that gives a next state. No
command writes a configuration register, PBUF, the configuration, the inbox or the port's answer; the other fields are written
only by the commands named. A byte of RBUF at or above the `FLEN` left is as before even for EXTRACT and GATE_YES, however they end
(rules R203, R271). -/
def Obligations.CommandsWriteOnlyTheirRegisters : Prop :=
  ∀ (s t : State) (i : Instr), exec i s = .next t →
    (t.gateEn = s.gateEn ∧ t.width = s.width ∧ t.height = s.height ∧ t.plen = s.plen ∧ t.gateThr = s.gateThr ∧
      t.seedLo = s.seedLo ∧ t.seedHi = s.seedHi ∧ t.pbuf = s.pbuf ∧ t.cfg = s.cfg ∧ t.inbox = s.inbox ∧
      t.answer = s.answer) ∧
    (i ≠ .muxWr → (∀ m, i ≠ .embed m) → t.pix = s.pix) ∧
    ((∀ m, i ≠ .extract m) → i ≠ .gateYes → t.rbuf = s.rbuf) ∧
    (∀ a, t.flen.toNat ≤ a → t.rbuf.read a = s.rbuf.read a) ∧
    ((∀ m, i ≠ .extract m) → i ≠ .gateYes → i ≠ .clr → t.crcExp = s.crcExp) ∧
    ((∀ m, i ≠ .extract m) → (∀ m, i ≠ .embed m) → i ≠ .gateYes → i ≠ .clr →
      t.bitpos = s.bitpos ∧ t.flen = s.flen ∧ t.rvalid = s.rvalid ∧
      (i ≠ .crcChk → t.crcok = s.crcok) ∧
      (i ≠ .muxRd → t.trip = s.trip) ∧
      (i ≠ .crcInit → (∀ b, i ≠ .crcByte b) → i ≠ .crcBuf → t.crcAcc = s.crcAcc) ∧
      (i ≠ .seqNext → t.seqX = s.seqX ∧ t.seqY = s.seqY) ∧
      (i ≠ .seqNext → (∀ m, i ≠ .seqInit m) →
        t.sw = s.sw ∧ t.sh = s.sh ∧ t.smode = s.smode ∧ t.prngS = s.prngS ∧ t.used = s.used ∧ t.seqCnt = s.seqCnt)) ∧
    (i ≠ .clr → t.freeCtr = s.freeCtr)

/-! ## The host port -/

/-- Rule R73, the complete list: a transaction is refused exactly when the list names it, and then nothing changes but that it is
taken and answered; a read of `CMD` is not refused and gives 0. -/
def Obligations.RefusedTransactionsAreExactlyTheListed : Prop :=
  ∀ (s : State) (x : HostTxn) (rest : List HostTxn), s.inbox = x :: rest →
    (RefusalListed x s → step s = .next { s with inbox := rest, answer := .busError }) ∧
    (¬ RefusalListed x s → ∀ t, step s = .next t → t.answer ≠ .busError) ∧
    (x = .csrRead .word 0x00 → step s = .next { s with inbox := rest, answer := .word 0x00000000#32 })

/-- Rules R23 to R41, R61: a CSR read at the offset of a register answers what the register reads and has no side effect. -/
def Obligations.CsrReadAnswersTheRegister : Prop :=
  ∀ (s : State) (r : Csr) (rest : List HostTxn), s.inbox = .csrRead .word r.offset :: rest →
    step s = .next { s with inbox := rest, answer := .word (readCsr s r) }

/-- Rules R23, R27, R35: a performed write of an RW register is what that register then reads (bit 0 of `CTRL`, bits 2:0 and 6:4
of `TRIP`), and every other register, the hidden state and the memories are as before. -/
def Obligations.CsrWriteIsReadBackAndTouchesNothingElse : Prop :=
  ∀ (s : State) (r : Csr) (v : Word) (rest : List HostTxn),
    s.run = .idle → s.inbox = .csrWrite .word r.offset v :: rest →
    r ∈ [Csr.ctrl, .width, .height, .plen, .gateThr, .seedLo, .seedHi, .crcExp, .seqX, .seqY, .trip] →
    ∃ t, step s = .next t ∧ t.answer = .performed ∧ t.inbox = rest ∧
      readCsr t r = (if r = .ctrl then v &&& 0x1#32 else if r = .trip then v &&& 0x77#32 else v) ∧
      (∀ r', r' ≠ r → readCsr t r' = readCsr s r') ∧
      t.run = s.run ∧ t.sw = s.sw ∧ t.sh = s.sh ∧ t.smode = s.smode ∧ t.prngS = s.prngS ∧ t.used = s.used ∧
      t.pix = s.pix ∧ t.pbuf = s.pbuf ∧ t.rbuf = s.rbuf ∧ t.cfg = s.cfg

/-- Rules R64, R50: `RbufRead(j)` gives byte `j` of RBUF only while `RVALID = 1` and `j < FLEN`, and is refused otherwise. -/
def Obligations.RbufIsReadableOnlyBelowRlen : Prop :=
  ∀ (s : State) (j : Nat) (rest : List HostTxn), s.Inv → s.inbox = .rbufRead j :: rest →
    (j < (readCsr s .rlen).toNat →
      step s = .next { s with inbox := rest, answer := .byte (s.rbuf.read j) }) ∧
    ((readCsr s .rlen).toNat ≤ j → step s = .next { s with inbox := rest, answer := .busError })

/-- Rules R60, R70: a byte the host writes to PIX or PBUF while `IDLE` is what it then reads there, and every other byte of the
space reads as before. -/
def Obligations.HostReadGivesTheLatestWrite : Prop :=
  ∀ (s : State) (a b : Nat) (v : Byte) (rest : List HostTxn), s.run = .idle →
    (s.pix.wf = true → a < 4 * s.cfg.maxPixels → b < 4 * s.cfg.maxPixels →
      s.inbox = .pixWrite a v :: .pixRead b :: rest →
      ∃ t u, step s = .next t ∧ t.answer = .performed ∧ step t = .next u ∧ u.inbox = rest ∧
        u.answer = .byte (if b = a then v else s.pix.read b)) ∧
    (s.pbuf.wf = true → a < s.cfg.pbufSize → b < s.cfg.pbufSize →
      s.inbox = .pbufWrite a v :: .pbufRead b :: rest →
      ∃ t u, step s = .next t ∧ t.answer = .performed ∧ step t = .next u ∧ u.inbox = rest ∧
        u.answer = .byte (if b = a then v else s.pbuf.read b))
end

