-- ==== Sys2Proof/Laws/Memory.lean ====
section
/-! SUPPORT. The laws of byte memories: a read after a write, the canonical form and the bound kept by every write, and equality of
canonical memories that read the same. -/

namespace Sys2Proof.Machine

@[simp] theorem Memory.read_nil (a : Nat) : Memory.read [] a = Memory.unlisted := rfl

@[simp] theorem Memory.wf_nil : Memory.wf [] = true := rfl

@[simp] theorem Memory.below_nil (n : Nat) : Memory.below n [] = true := rfl

theorem Memory.wfFrom_cons {lo a : Nat} {v : Byte} {r : Memory} :
    Memory.wfFrom lo ((a, v) :: r) = true ↔ lo ≤ a ∧ v ≠ Memory.unlisted ∧ Memory.wfFrom (a + 1) r = true := by
  simp [Memory.wfFrom, and_assoc]

theorem Memory.wfFrom_mono {lo lo' : Nat} {m : Memory} (hl : lo' ≤ lo) (h : Memory.wfFrom lo m = true) :
    Memory.wfFrom lo' m = true := by
  cases m with
  | nil => rfl
  | cons c r =>
    obtain ⟨ha, hv, hr⟩ := Memory.wfFrom_cons.1 h
    exact Memory.wfFrom_cons.2 ⟨by omega, hv, hr⟩

/-- Below the first address a canonical memory lists nothing. -/
theorem Memory.read_of_wfFrom {lo a : Nat} {m : Memory} (h : Memory.wfFrom lo m = true) (ha : a < lo) :
    m.read a = Memory.unlisted := by
  induction m generalizing lo with
  | nil => rfl
  | cons c r ih =>
    obtain ⟨b, w⟩ := c
    obtain ⟨hb, -, hr⟩ := Memory.wfFrom_cons.1 h
    have : a ≠ b := by omega
    simp only [Memory.read, if_neg this]
    exact ih hr (by omega)

/-- A write leaves every other byte alone, whatever the list. -/
theorem Memory.read_write_other {m : Memory} {a b : Nat} {v : Byte} (h : b ≠ a) :
    (m.write a v).read b = m.read b := by
  induction m with
  | nil => by_cases hv : v = Memory.unlisted <;> simp [Memory.write, Memory.read, hv, h]
  | cons c r ih =>
    obtain ⟨d, w⟩ := c
    unfold Memory.write
    split
    · split <;> simp [Memory.read, h]
    · split
      · rename_i hd
        subst hd
        split <;> simp [Memory.read, h]
      · simp [Memory.read, ih]

theorem Memory.read_write_same_from {m : Memory} {lo a : Nat} {v : Byte} (h : Memory.wfFrom lo m = true) :
    (m.write a v).read a = v := by
  induction m generalizing lo with
  | nil => by_cases hv : v = Memory.unlisted <;> simp [Memory.write, Memory.read, hv]
  | cons c r ih =>
    obtain ⟨d, w⟩ := c
    obtain ⟨hd, hw, hr⟩ := Memory.wfFrom_cons.1 h
    unfold Memory.write
    split
    · rename_i had
      split
      · rename_i hv
        have : a ≠ d := by omega
        simp [Memory.read, this, Memory.read_of_wfFrom hr (by omega : a < d + 1), hv]
      · simp [Memory.read]
    · split
      · rename_i had
        subst had
        split
        · rename_i hv
          simp [Memory.read_of_wfFrom hr (by omega : a < a + 1), hv]
        · simp [Memory.read]
      · rename_i had
        simp [Memory.read, had, ih hr]

/-- A read after a write to the same address gives the value written. -/
theorem Memory.read_write_same {m : Memory} {a : Nat} {v : Byte} (h : m.wf = true) : (m.write a v).read a = v :=
  Memory.read_write_same_from h

theorem Memory.read_write {m : Memory} {a b : Nat} {v : Byte} (h : m.wf = true) :
    (m.write a v).read b = if b = a then v else m.read b := by
  split
  · rename_i hb
    rw [hb, Memory.read_write_same h]
  · rename_i hb
    exact Memory.read_write_other hb

theorem Memory.wfFrom_write {m : Memory} {lo a : Nat} {v : Byte} (h : Memory.wfFrom lo m = true) (ha : lo ≤ a) :
    Memory.wfFrom lo (m.write a v) = true := by
  induction m generalizing lo with
  | nil =>
    by_cases hv : v = Memory.unlisted
    · simp [Memory.write, hv, Memory.wfFrom]
    · simp only [Memory.write, if_neg hv]
      exact Memory.wfFrom_cons.2 ⟨ha, hv, rfl⟩
  | cons c r ih =>
    obtain ⟨d, w⟩ := c
    obtain ⟨hd, hw, hr⟩ := Memory.wfFrom_cons.1 h
    unfold Memory.write
    split
    · rename_i had
      split
      · exact h
      · rename_i hv
        exact Memory.wfFrom_cons.2 ⟨ha, hv, Memory.wfFrom_cons.2 ⟨by omega, hw, hr⟩⟩
    · split
      · rename_i had
        subst had
        split
        · exact Memory.wfFrom_mono (by omega) hr
        · rename_i hv
          exact Memory.wfFrom_cons.2 ⟨hd, hv, hr⟩
      · exact Memory.wfFrom_cons.2 ⟨hd, hw, ih hr (by omega)⟩

/-- A write keeps the canonical form. -/
theorem Memory.wf_write {m : Memory} {a : Nat} {v : Byte} (h : m.wf = true) : (m.write a v).wf = true :=
  Memory.wfFrom_write h (Nat.zero_le a)

theorem Memory.below_cons {n a : Nat} {v : Byte} {r : Memory} :
    Memory.below n ((a, v) :: r) = true ↔ a < n ∧ Memory.below n r = true := by
  simp only [Memory.below, List.all_cons, Bool.and_eq_true, decide_eq_true_eq]

/-- A write below the bound keeps the bound. -/
theorem Memory.below_write {m : Memory} {n a : Nat} {v : Byte} (h : m.below n = true) (ha : a < n) :
    (m.write a v).below n = true := by
  induction m with
  | nil => by_cases hv : v = Memory.unlisted <;> simp [Memory.write, Memory.below, hv, ha]
  | cons c r ih =>
    obtain ⟨d, w⟩ := c
    obtain ⟨hd, hr⟩ := Memory.below_cons.1 h
    unfold Memory.write
    split
    · split
      · exact h
      · exact Memory.below_cons.2 ⟨ha, h⟩
    · split
      · split
        · exact hr
        · exact Memory.below_cons.2 ⟨ha, hr⟩
      · exact Memory.below_cons.2 ⟨hd, ih hr⟩

theorem Memory.eq_of_read_from {m n : Memory} {lo : Nat} (hm : Memory.wfFrom lo m = true) (hn : Memory.wfFrom lo n = true)
    (h : ∀ a, m.read a = n.read a) : m = n := by
  induction m generalizing n lo with
  | nil =>
    cases n with
    | nil => rfl
    | cons c r =>
      obtain ⟨b, w⟩ := c
      have := h b
      simp [Memory.read] at this
      exact absurd this.symm (Memory.wfFrom_cons.1 hn).2.1
  | cons c r ih =>
    obtain ⟨a, v⟩ := c
    obtain ⟨hla, hv, hr⟩ := Memory.wfFrom_cons.1 hm
    cases n with
    | nil =>
      have := h a
      simp [Memory.read] at this
      exact absurd this hv
    | cons d q =>
      obtain ⟨b, w⟩ := d
      obtain ⟨hlb, hw, hq⟩ := Memory.wfFrom_cons.1 hn
      have hab : a = b := by
        rcases Nat.lt_trichotomy a b with hlt | heq | hgt
        · have := h a
          have hne : a ≠ b := by omega
          simp only [Memory.read, if_true, if_neg hne, Memory.read_of_wfFrom hq (by omega : a < b + 1)] at this
          exact absurd this hv
        · exact heq
        · have := h b
          have hne : b ≠ a := by omega
          simp only [Memory.read, if_true, if_neg hne, Memory.read_of_wfFrom hr (by omega : b < a + 1)] at this
          exact absurd this.symm hw
      subst hab
      have hvw : v = w := by simpa [Memory.read] using h a
      subst hvw
      have : r = q := by
        refine ih hr hq fun x => ?_
        by_cases hx : x = a
        · subst hx
          rw [Memory.read_of_wfFrom hr (by omega), Memory.read_of_wfFrom hq (by omega)]
        · simpa [Memory.read, hx] using h x
      rw [this]

/-- Canonical memories that read the same are equal. -/
theorem Memory.eq_of_read {m n : Memory} (hm : m.wf = true) (hn : n.wf = true) (h : ∀ a, m.read a = n.read a) : m = n :=
  Memory.eq_of_read_from hm hn h

end Sys2Proof.Machine
end

