-- ==== Sys2Proof/Laws/State.lean ====
section
/-! SUPPORT. The small lemmas of the state's named updates: one per field per update, true by `rfl`. -/

namespace Sys2Proof.Machine

/-! ### raiseError -/

@[simp] theorem raiseError_done (e : CmdError) (s : State) : (raiseError e s).done = false := rfl
@[simp] theorem raiseError_err (e : CmdError) (s : State) : (raiseError e s).err = true := rfl
@[simp] theorem raiseError_rvalid (e : CmdError) (s : State) : (raiseError e s).rvalid = s.rvalid := rfl
@[simp] theorem raiseError_crcok (e : CmdError) (s : State) : (raiseError e s).crcok = s.crcok := rfl
@[simp] theorem raiseError_smode (e : CmdError) (s : State) : (raiseError e s).smode = s.smode := rfl
@[simp] theorem raiseError_errcode (e : CmdError) (s : State) : (raiseError e s).errcode = errorCode e := rfl
@[simp] theorem raiseError_gateEn (e : CmdError) (s : State) : (raiseError e s).gateEn = s.gateEn := rfl
@[simp] theorem raiseError_width (e : CmdError) (s : State) : (raiseError e s).width = s.width := rfl
@[simp] theorem raiseError_height (e : CmdError) (s : State) : (raiseError e s).height = s.height := rfl
@[simp] theorem raiseError_plen (e : CmdError) (s : State) : (raiseError e s).plen = s.plen := rfl
@[simp] theorem raiseError_gateThr (e : CmdError) (s : State) : (raiseError e s).gateThr = s.gateThr := rfl
@[simp] theorem raiseError_seedLo (e : CmdError) (s : State) : (raiseError e s).seedLo = s.seedLo := rfl
@[simp] theorem raiseError_seedHi (e : CmdError) (s : State) : (raiseError e s).seedHi = s.seedHi := rfl
@[simp] theorem raiseError_crcExp (e : CmdError) (s : State) : (raiseError e s).crcExp = s.crcExp := rfl
@[simp] theorem raiseError_seqX (e : CmdError) (s : State) : (raiseError e s).seqX = s.seqX := rfl
@[simp] theorem raiseError_seqY (e : CmdError) (s : State) : (raiseError e s).seqY = s.seqY := rfl
@[simp] theorem raiseError_trip (e : CmdError) (s : State) : (raiseError e s).trip = s.trip := rfl
@[simp] theorem raiseError_crcAcc (e : CmdError) (s : State) : (raiseError e s).crcAcc = s.crcAcc := rfl
@[simp] theorem raiseError_flen (e : CmdError) (s : State) : (raiseError e s).flen = s.flen := rfl
@[simp] theorem raiseError_seqCnt (e : CmdError) (s : State) : (raiseError e s).seqCnt = s.seqCnt := rfl
@[simp] theorem raiseError_bitpos (e : CmdError) (s : State) : (raiseError e s).bitpos = s.bitpos := rfl
@[simp] theorem raiseError_run (e : CmdError) (s : State) : (raiseError e s).run = .idle := rfl
@[simp] theorem raiseError_sw (e : CmdError) (s : State) : (raiseError e s).sw = s.sw := rfl
@[simp] theorem raiseError_sh (e : CmdError) (s : State) : (raiseError e s).sh = s.sh := rfl
@[simp] theorem raiseError_prngS (e : CmdError) (s : State) : (raiseError e s).prngS = s.prngS := rfl
@[simp] theorem raiseError_used (e : CmdError) (s : State) : (raiseError e s).used = s.used := rfl
@[simp] theorem raiseError_pix (e : CmdError) (s : State) : (raiseError e s).pix = s.pix := rfl
@[simp] theorem raiseError_pbuf (e : CmdError) (s : State) : (raiseError e s).pbuf = s.pbuf := rfl
@[simp] theorem raiseError_rbuf (e : CmdError) (s : State) : (raiseError e s).rbuf = s.rbuf := rfl
@[simp] theorem raiseError_cfg (e : CmdError) (s : State) : (raiseError e s).cfg = s.cfg := rfl
@[simp] theorem raiseError_freeCtr (e : CmdError) (s : State) : (raiseError e s).freeCtr = s.freeCtr := rfl
@[simp] theorem raiseError_inbox (e : CmdError) (s : State) : (raiseError e s).inbox = s.inbox := rfl
@[simp] theorem raiseError_answer (e : CmdError) (s : State) : (raiseError e s).answer = s.answer := rfl

/-! ### prologue -/

@[simp] theorem prologue_done (s : State) : (prologue s).done = false := rfl
@[simp] theorem prologue_err (s : State) : (prologue s).err = false := rfl
@[simp] theorem prologue_rvalid (s : State) : (prologue s).rvalid = s.rvalid := rfl
@[simp] theorem prologue_crcok (s : State) : (prologue s).crcok = s.crcok := rfl
@[simp] theorem prologue_smode (s : State) : (prologue s).smode = s.smode := rfl
@[simp] theorem prologue_errcode (s : State) : (prologue s).errcode = 0x00#8 := rfl
@[simp] theorem prologue_gateEn (s : State) : (prologue s).gateEn = s.gateEn := rfl
@[simp] theorem prologue_width (s : State) : (prologue s).width = s.width := rfl
@[simp] theorem prologue_height (s : State) : (prologue s).height = s.height := rfl
@[simp] theorem prologue_plen (s : State) : (prologue s).plen = s.plen := rfl
@[simp] theorem prologue_gateThr (s : State) : (prologue s).gateThr = s.gateThr := rfl
@[simp] theorem prologue_seedLo (s : State) : (prologue s).seedLo = s.seedLo := rfl
@[simp] theorem prologue_seedHi (s : State) : (prologue s).seedHi = s.seedHi := rfl
@[simp] theorem prologue_crcExp (s : State) : (prologue s).crcExp = s.crcExp := rfl
@[simp] theorem prologue_seqX (s : State) : (prologue s).seqX = s.seqX := rfl
@[simp] theorem prologue_seqY (s : State) : (prologue s).seqY = s.seqY := rfl
@[simp] theorem prologue_trip (s : State) : (prologue s).trip = s.trip := rfl
@[simp] theorem prologue_crcAcc (s : State) : (prologue s).crcAcc = s.crcAcc := rfl
@[simp] theorem prologue_flen (s : State) : (prologue s).flen = s.flen := rfl
@[simp] theorem prologue_seqCnt (s : State) : (prologue s).seqCnt = s.seqCnt := rfl
@[simp] theorem prologue_bitpos (s : State) : (prologue s).bitpos = s.bitpos := rfl
@[simp] theorem prologue_run (s : State) : (prologue s).run = s.run := rfl
@[simp] theorem prologue_sw (s : State) : (prologue s).sw = s.sw := rfl
@[simp] theorem prologue_sh (s : State) : (prologue s).sh = s.sh := rfl
@[simp] theorem prologue_prngS (s : State) : (prologue s).prngS = s.prngS := rfl
@[simp] theorem prologue_used (s : State) : (prologue s).used = s.used := rfl
@[simp] theorem prologue_pix (s : State) : (prologue s).pix = s.pix := rfl
@[simp] theorem prologue_pbuf (s : State) : (prologue s).pbuf = s.pbuf := rfl
@[simp] theorem prologue_rbuf (s : State) : (prologue s).rbuf = s.rbuf := rfl
@[simp] theorem prologue_cfg (s : State) : (prologue s).cfg = s.cfg := rfl
@[simp] theorem prologue_freeCtr (s : State) : (prologue s).freeCtr = s.freeCtr := rfl
@[simp] theorem prologue_inbox (s : State) : (prologue s).inbox = s.inbox := rfl
@[simp] theorem prologue_answer (s : State) : (prologue s).answer = s.answer := rfl

/-! ### macroPrologue -/

@[simp] theorem macroPrologue_done (s : State) : (macroPrologue s).done = s.done := rfl
@[simp] theorem macroPrologue_err (s : State) : (macroPrologue s).err = s.err := rfl
@[simp] theorem macroPrologue_rvalid (s : State) : (macroPrologue s).rvalid = false := rfl
@[simp] theorem macroPrologue_crcok (s : State) : (macroPrologue s).crcok = false := rfl
@[simp] theorem macroPrologue_smode (s : State) : (macroPrologue s).smode = s.smode := rfl
@[simp] theorem macroPrologue_errcode (s : State) : (macroPrologue s).errcode = s.errcode := rfl
@[simp] theorem macroPrologue_gateEn (s : State) : (macroPrologue s).gateEn = s.gateEn := rfl
@[simp] theorem macroPrologue_width (s : State) : (macroPrologue s).width = s.width := rfl
@[simp] theorem macroPrologue_height (s : State) : (macroPrologue s).height = s.height := rfl
@[simp] theorem macroPrologue_plen (s : State) : (macroPrologue s).plen = s.plen := rfl
@[simp] theorem macroPrologue_gateThr (s : State) : (macroPrologue s).gateThr = s.gateThr := rfl
@[simp] theorem macroPrologue_seedLo (s : State) : (macroPrologue s).seedLo = s.seedLo := rfl
@[simp] theorem macroPrologue_seedHi (s : State) : (macroPrologue s).seedHi = s.seedHi := rfl
@[simp] theorem macroPrologue_crcExp (s : State) : (macroPrologue s).crcExp = s.crcExp := rfl
@[simp] theorem macroPrologue_seqX (s : State) : (macroPrologue s).seqX = s.seqX := rfl
@[simp] theorem macroPrologue_seqY (s : State) : (macroPrologue s).seqY = s.seqY := rfl
@[simp] theorem macroPrologue_trip (s : State) : (macroPrologue s).trip = { v := 0#3, p := 0#3 } := rfl
@[simp] theorem macroPrologue_crcAcc (s : State) : (macroPrologue s).crcAcc = 0xFFFFFFFF#32 := rfl
@[simp] theorem macroPrologue_flen (s : State) : (macroPrologue s).flen = 0x00000000#32 := rfl
@[simp] theorem macroPrologue_seqCnt (s : State) : (macroPrologue s).seqCnt = s.seqCnt := rfl
@[simp] theorem macroPrologue_bitpos (s : State) : (macroPrologue s).bitpos = 0 := rfl
@[simp] theorem macroPrologue_run (s : State) : (macroPrologue s).run = s.run := rfl
@[simp] theorem macroPrologue_sw (s : State) : (macroPrologue s).sw = s.sw := rfl
@[simp] theorem macroPrologue_sh (s : State) : (macroPrologue s).sh = s.sh := rfl
@[simp] theorem macroPrologue_prngS (s : State) : (macroPrologue s).prngS = s.prngS := rfl
@[simp] theorem macroPrologue_used (s : State) : (macroPrologue s).used = s.used := rfl
@[simp] theorem macroPrologue_pix (s : State) : (macroPrologue s).pix = s.pix := rfl
@[simp] theorem macroPrologue_pbuf (s : State) : (macroPrologue s).pbuf = s.pbuf := rfl
@[simp] theorem macroPrologue_rbuf (s : State) : (macroPrologue s).rbuf = s.rbuf := rfl
@[simp] theorem macroPrologue_cfg (s : State) : (macroPrologue s).cfg = s.cfg := rfl
@[simp] theorem macroPrologue_freeCtr (s : State) : (macroPrologue s).freeCtr = s.freeCtr := rfl
@[simp] theorem macroPrologue_inbox (s : State) : (macroPrologue s).inbox = s.inbox := rfl
@[simp] theorem macroPrologue_answer (s : State) : (macroPrologue s).answer = s.answer := rfl

/-! ### seqInit -/

@[simp] theorem seqInit_done (m : Mode) (s : State) : (seqInit m s).done = s.done := rfl
@[simp] theorem seqInit_err (m : Mode) (s : State) : (seqInit m s).err = s.err := rfl
@[simp] theorem seqInit_rvalid (m : Mode) (s : State) : (seqInit m s).rvalid = s.rvalid := rfl
@[simp] theorem seqInit_crcok (m : Mode) (s : State) : (seqInit m s).crcok = s.crcok := rfl
@[simp] theorem seqInit_smode (m : Mode) (s : State) : (seqInit m s).smode = m := rfl
@[simp] theorem seqInit_errcode (m : Mode) (s : State) : (seqInit m s).errcode = s.errcode := rfl
@[simp] theorem seqInit_gateEn (m : Mode) (s : State) : (seqInit m s).gateEn = s.gateEn := rfl
@[simp] theorem seqInit_width (m : Mode) (s : State) : (seqInit m s).width = s.width := rfl
@[simp] theorem seqInit_height (m : Mode) (s : State) : (seqInit m s).height = s.height := rfl
@[simp] theorem seqInit_plen (m : Mode) (s : State) : (seqInit m s).plen = s.plen := rfl
@[simp] theorem seqInit_gateThr (m : Mode) (s : State) : (seqInit m s).gateThr = s.gateThr := rfl
@[simp] theorem seqInit_seedLo (m : Mode) (s : State) : (seqInit m s).seedLo = s.seedLo := rfl
@[simp] theorem seqInit_seedHi (m : Mode) (s : State) : (seqInit m s).seedHi = s.seedHi := rfl
@[simp] theorem seqInit_crcExp (m : Mode) (s : State) : (seqInit m s).crcExp = s.crcExp := rfl
@[simp] theorem seqInit_seqX (m : Mode) (s : State) : (seqInit m s).seqX = s.seqX := rfl
@[simp] theorem seqInit_seqY (m : Mode) (s : State) : (seqInit m s).seqY = s.seqY := rfl
@[simp] theorem seqInit_trip (m : Mode) (s : State) : (seqInit m s).trip = s.trip := rfl
@[simp] theorem seqInit_crcAcc (m : Mode) (s : State) : (seqInit m s).crcAcc = s.crcAcc := rfl
@[simp] theorem seqInit_flen (m : Mode) (s : State) : (seqInit m s).flen = s.flen := rfl
@[simp] theorem seqInit_seqCnt (m : Mode) (s : State) : (seqInit m s).seqCnt = 0 := rfl
@[simp] theorem seqInit_bitpos (m : Mode) (s : State) : (seqInit m s).bitpos = s.bitpos := rfl
@[simp] theorem seqInit_run (m : Mode) (s : State) : (seqInit m s).run = s.run := rfl
@[simp] theorem seqInit_sw (m : Mode) (s : State) : (seqInit m s).sw = s.width := rfl
@[simp] theorem seqInit_sh (m : Mode) (s : State) : (seqInit m s).sh = s.height := rfl
@[simp] theorem seqInit_prngS (m : Mode) (s : State) : (seqInit m s).prngS = prngInit s.cfg.prng s.seed := rfl
@[simp] theorem seqInit_used (m : Mode) (s : State) : (seqInit m s).used = [] := rfl
@[simp] theorem seqInit_pix (m : Mode) (s : State) : (seqInit m s).pix = s.pix := rfl
@[simp] theorem seqInit_pbuf (m : Mode) (s : State) : (seqInit m s).pbuf = s.pbuf := rfl
@[simp] theorem seqInit_rbuf (m : Mode) (s : State) : (seqInit m s).rbuf = s.rbuf := rfl
@[simp] theorem seqInit_cfg (m : Mode) (s : State) : (seqInit m s).cfg = s.cfg := rfl
@[simp] theorem seqInit_freeCtr (m : Mode) (s : State) : (seqInit m s).freeCtr = s.freeCtr := rfl
@[simp] theorem seqInit_inbox (m : Mode) (s : State) : (seqInit m s).inbox = s.inbox := rfl
@[simp] theorem seqInit_answer (m : Mode) (s : State) : (seqInit m s).answer = s.answer := rfl

/-! ### clear -/

@[simp] theorem clear_done (s : State) : (clear s).done = s.done := rfl
@[simp] theorem clear_err (s : State) : (clear s).err = s.err := rfl
@[simp] theorem clear_rvalid (s : State) : (clear s).rvalid = false := rfl
@[simp] theorem clear_crcok (s : State) : (clear s).crcok = false := rfl
@[simp] theorem clear_smode (s : State) : (clear s).smode = .rng := rfl
@[simp] theorem clear_errcode (s : State) : (clear s).errcode = s.errcode := rfl
@[simp] theorem clear_gateEn (s : State) : (clear s).gateEn = s.gateEn := rfl
@[simp] theorem clear_width (s : State) : (clear s).width = s.width := rfl
@[simp] theorem clear_height (s : State) : (clear s).height = s.height := rfl
@[simp] theorem clear_plen (s : State) : (clear s).plen = s.plen := rfl
@[simp] theorem clear_gateThr (s : State) : (clear s).gateThr = s.gateThr := rfl
@[simp] theorem clear_seedLo (s : State) : (clear s).seedLo = s.seedLo := rfl
@[simp] theorem clear_seedHi (s : State) : (clear s).seedHi = s.seedHi := rfl
@[simp] theorem clear_crcExp (s : State) : (clear s).crcExp = 0x00000000#32 := rfl
@[simp] theorem clear_seqX (s : State) : (clear s).seqX = 0x00000000#32 := rfl
@[simp] theorem clear_seqY (s : State) : (clear s).seqY = 0x00000000#32 := rfl
@[simp] theorem clear_trip (s : State) : (clear s).trip = { v := 0#3, p := 0#3 } := rfl
@[simp] theorem clear_crcAcc (s : State) : (clear s).crcAcc = 0xFFFFFFFF#32 := rfl
@[simp] theorem clear_flen (s : State) : (clear s).flen = 0x00000000#32 := rfl
@[simp] theorem clear_seqCnt (s : State) : (clear s).seqCnt = 0 := rfl
@[simp] theorem clear_bitpos (s : State) : (clear s).bitpos = 0 := rfl
@[simp] theorem clear_run (s : State) : (clear s).run = .idle := rfl
@[simp] theorem clear_sw (s : State) : (clear s).sw = 0x00000000#32 := rfl
@[simp] theorem clear_sh (s : State) : (clear s).sh = 0x00000000#32 := rfl
@[simp] theorem clear_prngS (s : State) : (clear s).prngS = Config.freePrngS s.freeCtr := rfl
@[simp] theorem clear_used (s : State) : (clear s).used = [] := rfl
@[simp] theorem clear_pix (s : State) : (clear s).pix = s.pix := rfl
@[simp] theorem clear_pbuf (s : State) : (clear s).pbuf = s.pbuf := rfl
@[simp] theorem clear_rbuf (s : State) : (clear s).rbuf = s.rbuf := rfl
@[simp] theorem clear_cfg (s : State) : (clear s).cfg = s.cfg := rfl
@[simp] theorem clear_freeCtr (s : State) : (clear s).freeCtr = s.freeCtr + 1 := rfl
@[simp] theorem clear_inbox (s : State) : (clear s).inbox = s.inbox := rfl
@[simp] theorem clear_answer (s : State) : (clear s).answer = s.answer := rfl

/-! ### respond -/

@[simp] theorem respond_done (a : HostAnswer) (s : State) : (respond a s).done = s.done := rfl
@[simp] theorem respond_err (a : HostAnswer) (s : State) : (respond a s).err = s.err := rfl
@[simp] theorem respond_rvalid (a : HostAnswer) (s : State) : (respond a s).rvalid = s.rvalid := rfl
@[simp] theorem respond_crcok (a : HostAnswer) (s : State) : (respond a s).crcok = s.crcok := rfl
@[simp] theorem respond_smode (a : HostAnswer) (s : State) : (respond a s).smode = s.smode := rfl
@[simp] theorem respond_errcode (a : HostAnswer) (s : State) : (respond a s).errcode = s.errcode := rfl
@[simp] theorem respond_gateEn (a : HostAnswer) (s : State) : (respond a s).gateEn = s.gateEn := rfl
@[simp] theorem respond_width (a : HostAnswer) (s : State) : (respond a s).width = s.width := rfl
@[simp] theorem respond_height (a : HostAnswer) (s : State) : (respond a s).height = s.height := rfl
@[simp] theorem respond_plen (a : HostAnswer) (s : State) : (respond a s).plen = s.plen := rfl
@[simp] theorem respond_gateThr (a : HostAnswer) (s : State) : (respond a s).gateThr = s.gateThr := rfl
@[simp] theorem respond_seedLo (a : HostAnswer) (s : State) : (respond a s).seedLo = s.seedLo := rfl
@[simp] theorem respond_seedHi (a : HostAnswer) (s : State) : (respond a s).seedHi = s.seedHi := rfl
@[simp] theorem respond_crcExp (a : HostAnswer) (s : State) : (respond a s).crcExp = s.crcExp := rfl
@[simp] theorem respond_seqX (a : HostAnswer) (s : State) : (respond a s).seqX = s.seqX := rfl
@[simp] theorem respond_seqY (a : HostAnswer) (s : State) : (respond a s).seqY = s.seqY := rfl
@[simp] theorem respond_trip (a : HostAnswer) (s : State) : (respond a s).trip = s.trip := rfl
@[simp] theorem respond_crcAcc (a : HostAnswer) (s : State) : (respond a s).crcAcc = s.crcAcc := rfl
@[simp] theorem respond_flen (a : HostAnswer) (s : State) : (respond a s).flen = s.flen := rfl
@[simp] theorem respond_seqCnt (a : HostAnswer) (s : State) : (respond a s).seqCnt = s.seqCnt := rfl
@[simp] theorem respond_bitpos (a : HostAnswer) (s : State) : (respond a s).bitpos = s.bitpos := rfl
@[simp] theorem respond_run (a : HostAnswer) (s : State) : (respond a s).run = s.run := rfl
@[simp] theorem respond_sw (a : HostAnswer) (s : State) : (respond a s).sw = s.sw := rfl
@[simp] theorem respond_sh (a : HostAnswer) (s : State) : (respond a s).sh = s.sh := rfl
@[simp] theorem respond_prngS (a : HostAnswer) (s : State) : (respond a s).prngS = s.prngS := rfl
@[simp] theorem respond_used (a : HostAnswer) (s : State) : (respond a s).used = s.used := rfl
@[simp] theorem respond_pix (a : HostAnswer) (s : State) : (respond a s).pix = s.pix := rfl
@[simp] theorem respond_pbuf (a : HostAnswer) (s : State) : (respond a s).pbuf = s.pbuf := rfl
@[simp] theorem respond_rbuf (a : HostAnswer) (s : State) : (respond a s).rbuf = s.rbuf := rfl
@[simp] theorem respond_cfg (a : HostAnswer) (s : State) : (respond a s).cfg = s.cfg := rfl
@[simp] theorem respond_freeCtr (a : HostAnswer) (s : State) : (respond a s).freeCtr = s.freeCtr := rfl
@[simp] theorem respond_inbox (a : HostAnswer) (s : State) : (respond a s).inbox = s.inbox := rfl
@[simp] theorem respond_answer (a : HostAnswer) (s : State) : (respond a s).answer = a := rfl

/-! ### compareCrc_snd -/

@[simp] theorem compareCrc_snd_done (s : State) : ((compareCrc s).2).done = s.done := rfl
@[simp] theorem compareCrc_snd_err (s : State) : ((compareCrc s).2).err = s.err := rfl
@[simp] theorem compareCrc_snd_rvalid (s : State) : ((compareCrc s).2).rvalid = s.rvalid := rfl
@[simp] theorem compareCrc_snd_crcok (s : State) : ((compareCrc s).2).crcok = (s.crcVal == s.crcExp) := rfl
@[simp] theorem compareCrc_snd_smode (s : State) : ((compareCrc s).2).smode = s.smode := rfl
@[simp] theorem compareCrc_snd_errcode (s : State) : ((compareCrc s).2).errcode = s.errcode := rfl
@[simp] theorem compareCrc_snd_gateEn (s : State) : ((compareCrc s).2).gateEn = s.gateEn := rfl
@[simp] theorem compareCrc_snd_width (s : State) : ((compareCrc s).2).width = s.width := rfl
@[simp] theorem compareCrc_snd_height (s : State) : ((compareCrc s).2).height = s.height := rfl
@[simp] theorem compareCrc_snd_plen (s : State) : ((compareCrc s).2).plen = s.plen := rfl
@[simp] theorem compareCrc_snd_gateThr (s : State) : ((compareCrc s).2).gateThr = s.gateThr := rfl
@[simp] theorem compareCrc_snd_seedLo (s : State) : ((compareCrc s).2).seedLo = s.seedLo := rfl
@[simp] theorem compareCrc_snd_seedHi (s : State) : ((compareCrc s).2).seedHi = s.seedHi := rfl
@[simp] theorem compareCrc_snd_crcExp (s : State) : ((compareCrc s).2).crcExp = s.crcExp := rfl
@[simp] theorem compareCrc_snd_seqX (s : State) : ((compareCrc s).2).seqX = s.seqX := rfl
@[simp] theorem compareCrc_snd_seqY (s : State) : ((compareCrc s).2).seqY = s.seqY := rfl
@[simp] theorem compareCrc_snd_trip (s : State) : ((compareCrc s).2).trip = s.trip := rfl
@[simp] theorem compareCrc_snd_crcAcc (s : State) : ((compareCrc s).2).crcAcc = s.crcAcc := rfl
@[simp] theorem compareCrc_snd_flen (s : State) : ((compareCrc s).2).flen = s.flen := rfl
@[simp] theorem compareCrc_snd_seqCnt (s : State) : ((compareCrc s).2).seqCnt = s.seqCnt := rfl
@[simp] theorem compareCrc_snd_bitpos (s : State) : ((compareCrc s).2).bitpos = s.bitpos := rfl
@[simp] theorem compareCrc_snd_run (s : State) : ((compareCrc s).2).run = s.run := rfl
@[simp] theorem compareCrc_snd_sw (s : State) : ((compareCrc s).2).sw = s.sw := rfl
@[simp] theorem compareCrc_snd_sh (s : State) : ((compareCrc s).2).sh = s.sh := rfl
@[simp] theorem compareCrc_snd_prngS (s : State) : ((compareCrc s).2).prngS = s.prngS := rfl
@[simp] theorem compareCrc_snd_used (s : State) : ((compareCrc s).2).used = s.used := rfl
@[simp] theorem compareCrc_snd_pix (s : State) : ((compareCrc s).2).pix = s.pix := rfl
@[simp] theorem compareCrc_snd_pbuf (s : State) : ((compareCrc s).2).pbuf = s.pbuf := rfl
@[simp] theorem compareCrc_snd_rbuf (s : State) : ((compareCrc s).2).rbuf = s.rbuf := rfl
@[simp] theorem compareCrc_snd_cfg (s : State) : ((compareCrc s).2).cfg = s.cfg := rfl
@[simp] theorem compareCrc_snd_freeCtr (s : State) : ((compareCrc s).2).freeCtr = s.freeCtr := rfl
@[simp] theorem compareCrc_snd_inbox (s : State) : ((compareCrc s).2).inbox = s.inbox := rfl
@[simp] theorem compareCrc_snd_answer (s : State) : ((compareCrc s).2).answer = s.answer := rfl

/-! ### setMem -/

@[simp] theorem setMem_done (s : State) (sp : Space) (m : Memory) : (s.setMem sp m).done = s.done := by cases sp <;> rfl
@[simp] theorem setMem_err (s : State) (sp : Space) (m : Memory) : (s.setMem sp m).err = s.err := by cases sp <;> rfl
@[simp] theorem setMem_rvalid (s : State) (sp : Space) (m : Memory) : (s.setMem sp m).rvalid = s.rvalid := by cases sp <;> rfl
@[simp] theorem setMem_crcok (s : State) (sp : Space) (m : Memory) : (s.setMem sp m).crcok = s.crcok := by cases sp <;> rfl
@[simp] theorem setMem_smode (s : State) (sp : Space) (m : Memory) : (s.setMem sp m).smode = s.smode := by cases sp <;> rfl
@[simp] theorem setMem_errcode (s : State) (sp : Space) (m : Memory) : (s.setMem sp m).errcode = s.errcode := by cases sp <;> rfl
@[simp] theorem setMem_gateEn (s : State) (sp : Space) (m : Memory) : (s.setMem sp m).gateEn = s.gateEn := by cases sp <;> rfl
@[simp] theorem setMem_width (s : State) (sp : Space) (m : Memory) : (s.setMem sp m).width = s.width := by cases sp <;> rfl
@[simp] theorem setMem_height (s : State) (sp : Space) (m : Memory) : (s.setMem sp m).height = s.height := by cases sp <;> rfl
@[simp] theorem setMem_plen (s : State) (sp : Space) (m : Memory) : (s.setMem sp m).plen = s.plen := by cases sp <;> rfl
@[simp] theorem setMem_gateThr (s : State) (sp : Space) (m : Memory) : (s.setMem sp m).gateThr = s.gateThr := by cases sp <;> rfl
@[simp] theorem setMem_seedLo (s : State) (sp : Space) (m : Memory) : (s.setMem sp m).seedLo = s.seedLo := by cases sp <;> rfl
@[simp] theorem setMem_seedHi (s : State) (sp : Space) (m : Memory) : (s.setMem sp m).seedHi = s.seedHi := by cases sp <;> rfl
@[simp] theorem setMem_crcExp (s : State) (sp : Space) (m : Memory) : (s.setMem sp m).crcExp = s.crcExp := by cases sp <;> rfl
@[simp] theorem setMem_seqX (s : State) (sp : Space) (m : Memory) : (s.setMem sp m).seqX = s.seqX := by cases sp <;> rfl
@[simp] theorem setMem_seqY (s : State) (sp : Space) (m : Memory) : (s.setMem sp m).seqY = s.seqY := by cases sp <;> rfl
@[simp] theorem setMem_trip (s : State) (sp : Space) (m : Memory) : (s.setMem sp m).trip = s.trip := by cases sp <;> rfl
@[simp] theorem setMem_crcAcc (s : State) (sp : Space) (m : Memory) : (s.setMem sp m).crcAcc = s.crcAcc := by cases sp <;> rfl
@[simp] theorem setMem_flen (s : State) (sp : Space) (m : Memory) : (s.setMem sp m).flen = s.flen := by cases sp <;> rfl
@[simp] theorem setMem_seqCnt (s : State) (sp : Space) (m : Memory) : (s.setMem sp m).seqCnt = s.seqCnt := by cases sp <;> rfl
@[simp] theorem setMem_bitpos (s : State) (sp : Space) (m : Memory) : (s.setMem sp m).bitpos = s.bitpos := by cases sp <;> rfl
@[simp] theorem setMem_run (s : State) (sp : Space) (m : Memory) : (s.setMem sp m).run = s.run := by cases sp <;> rfl
@[simp] theorem setMem_sw (s : State) (sp : Space) (m : Memory) : (s.setMem sp m).sw = s.sw := by cases sp <;> rfl
@[simp] theorem setMem_sh (s : State) (sp : Space) (m : Memory) : (s.setMem sp m).sh = s.sh := by cases sp <;> rfl
@[simp] theorem setMem_prngS (s : State) (sp : Space) (m : Memory) : (s.setMem sp m).prngS = s.prngS := by cases sp <;> rfl
@[simp] theorem setMem_used (s : State) (sp : Space) (m : Memory) : (s.setMem sp m).used = s.used := by cases sp <;> rfl
@[simp] theorem setMem_pix_pix (s : State) (m : Memory) : (s.setMem .pix m).pix = m := rfl
@[simp] theorem setMem_pbuf_pix (s : State) (m : Memory) : (s.setMem .pbuf m).pix = s.pix := rfl
@[simp] theorem setMem_rbuf_pix (s : State) (m : Memory) : (s.setMem .rbuf m).pix = s.pix := rfl
@[simp] theorem setMem_pix_pbuf (s : State) (m : Memory) : (s.setMem .pix m).pbuf = s.pbuf := rfl
@[simp] theorem setMem_pbuf_pbuf (s : State) (m : Memory) : (s.setMem .pbuf m).pbuf = m := rfl
@[simp] theorem setMem_rbuf_pbuf (s : State) (m : Memory) : (s.setMem .rbuf m).pbuf = s.pbuf := rfl
@[simp] theorem setMem_pix_rbuf (s : State) (m : Memory) : (s.setMem .pix m).rbuf = s.rbuf := rfl
@[simp] theorem setMem_pbuf_rbuf (s : State) (m : Memory) : (s.setMem .pbuf m).rbuf = s.rbuf := rfl
@[simp] theorem setMem_rbuf_rbuf (s : State) (m : Memory) : (s.setMem .rbuf m).rbuf = m := rfl
@[simp] theorem setMem_cfg (s : State) (sp : Space) (m : Memory) : (s.setMem sp m).cfg = s.cfg := by cases sp <;> rfl
@[simp] theorem setMem_freeCtr (s : State) (sp : Space) (m : Memory) : (s.setMem sp m).freeCtr = s.freeCtr := by cases sp <;> rfl
@[simp] theorem setMem_inbox (s : State) (sp : Space) (m : Memory) : (s.setMem sp m).inbox = s.inbox := by cases sp <;> rfl
@[simp] theorem setMem_answer (s : State) (sp : Space) (m : Memory) : (s.setMem sp m).answer = s.answer := by cases sp <;> rfl

@[simp] theorem mem_pix (s : State) : s.mem .pix = s.pix := rfl
@[simp] theorem mem_pbuf (s : State) : s.mem .pbuf = s.pbuf := rfl
@[simp] theorem mem_rbuf (s : State) : s.mem .rbuf = s.rbuf := rfl
@[simp] theorem spaceSize_pix (c : Config) : spaceSize c .pix = 4 * c.maxPixels := rfl
@[simp] theorem spaceSize_pbuf (c : Config) : spaceSize c .pbuf = c.pbufSize := rfl
@[simp] theorem spaceSize_rbuf (c : Config) : spaceSize c .rbuf = c.rbufSize := rfl
@[simp] theorem compareCrc_fst (s : State) : (compareCrc s).1 = (s.crcVal == s.crcExp) := rfl
@[simp] theorem refuseTxn_eq (s : State) : refuseTxn s = respond .busError s := rfl

end Sys2Proof.Machine
end

