-- ==== Sys2Proof/Laws/Ops.lean ====
section
/-! SUPPORT. What the shared operations of Machine/Ops.lean can do, said once: the results of a piece of pseudocode and their
sequencing, memory accesses, the dimension check, and the start and end of a command. -/

namespace Sys2Proof.Machine

/-! ## Results -/

section
variable {α β : Type}

@[simp] theorem andThen_ok (a : α) (s : State) (f : α → State → Res β) : (Res.ok a s).andThen f = f a s := rfl
@[simp] theorem andThen_raised (e : CmdError) (s : State) (f : α → State → Res β) :
    (Res.raised e s : Res α).andThen f = .raised e s := rfl
@[simp] theorem andThen_suspended (s : State) (f : α → State → Res β) :
    (Res.suspended s : Res α).andThen f = .suspended s := rfl
@[simp] theorem andThen_stuck (x : Fault) (f : α → State → Res β) : (Res.stuck x : Res α).andThen f = .stuck x := rfl

theorem andThen_assoc {γ : Type} (r : Res α) (f : α → State → Res β) (g : β → State → Res γ) :
    (r.andThen f).andThen g = r.andThen fun a s => (f a s).andThen g := by
  cases r <;> rfl

theorem andThen_eq_ok {r : Res α} {f : α → State → Res β} {b : β} {t : State} :
    r.andThen f = .ok b t ↔ ∃ a s, r = .ok a s ∧ f a s = .ok b t := by
  cases r <;> simp

theorem andThen_eq_raised {r : Res α} {f : α → State → Res β} {e : CmdError} {t : State} :
    r.andThen f = .raised e t ↔ r = .raised e t ∨ ∃ a s, r = .ok a s ∧ f a s = .raised e t := by
  cases r <;> simp

theorem andThen_eq_suspended {r : Res α} {f : α → State → Res β} {t : State} :
    r.andThen f = .suspended t ↔ r = .suspended t ∨ ∃ a s, r = .ok a s ∧ f a s = .suspended t := by
  cases r <;> simp

theorem andThen_eq_stuck {r : Res α} {f : α → State → Res β} {x : Fault} :
    r.andThen f = .stuck x ↔ r = .stuck x ∨ ∃ a s, r = .ok a s ∧ f a s = .stuck x := by
  cases r <;> simp

/-- Every state a result carries has `p`. -/
def Res.All (p : State → Prop) : Res α → Prop
  | .ok _ s => p s
  | .raised _ s => p s
  | .suspended s => p s
  | .stuck _ => True

@[simp] theorem all_ok (p : State → Prop) (a : α) (s : State) : (Res.ok a s).All p ↔ p s := Iff.rfl
@[simp] theorem all_raised (p : State → Prop) (e : CmdError) (s : State) : (Res.raised e s : Res α).All p ↔ p s := Iff.rfl
@[simp] theorem all_suspended (p : State → Prop) (s : State) : (Res.suspended s : Res α).All p ↔ p s := Iff.rfl
@[simp] theorem all_stuck (p : State → Prop) (x : Fault) : (Res.stuck x : Res α).All p := trivial

theorem Res.All.mono {p q : State → Prop} {r : Res α} (h : r.All p) (hpq : ∀ s, p s → q s) : r.All q := by
  cases r <;> first | exact hpq _ h | trivial

/-- The rule for a sequence: what the first part's states have is enough for what the second part's states have. -/
theorem Res.All.andThen {p q : State → Prop} {r : Res α} {f : α → State → Res β} (h : r.All p)
    (hq : ∀ s, p s → q s) (hf : ∀ a s, p s → (f a s).All q) : (r.andThen f).All q := by
  cases r with
  | ok a s => exact hf a s h
  | raised e s => exact hq s h
  | suspended s => exact hq s h
  | stuck x => trivial

end

/-! ## Memory accesses -/

theorem memRead_of_lt {sp : Space} {a : Nat} {s : State} (h : a < spaceSize s.cfg sp) :
    memRead sp a s = .ok ((s.mem sp).read a) s := if_pos h

theorem memRead_of_ge {sp : Space} {a : Nat} {s : State} (h : spaceSize s.cfg sp ≤ a) :
    memRead sp a s = .stuck (.blockAccess sp) := if_neg (by omega)

theorem memWrite_of_lt {sp : Space} {a : Nat} {v : Byte} {s : State} (h : a < spaceSize s.cfg sp) :
    memWrite sp a v s = .ok () (s.setMem sp ((s.mem sp).write a v)) := if_pos h

theorem memWrite_of_ge {sp : Space} {a : Nat} {v : Byte} {s : State} (h : spaceSize s.cfg sp ≤ a) :
    memWrite sp a v s = .stuck (.blockAccess sp) := if_neg (by omega)

theorem memRead_all {p : State → Prop} {sp : Space} {a : Nat} {s : State} (h : p s) : (memRead sp a s).All p := by
  unfold memRead; split <;> simp [h]

/-- Reading a range inside a memory gives its bytes and leaves the state alone. -/
theorem memReadRange_of_le {sp : Space} {n j : Nat} {s : State} (h : j + n ≤ spaceSize s.cfg sp) :
    memReadRange sp n j s = .ok ((List.range n).map fun k => (s.mem sp).read (j + k)) s := by
  induction n generalizing j with
  | zero => rfl
  | succ n ih =>
    rw [memReadRange, memRead_of_lt (by omega), andThen_ok, ih (by omega), andThen_ok, List.range_succ_eq_map]
    simp [Nat.add_assoc, Nat.add_comm 1]

theorem memReadRange_all {p : State → Prop} {sp : Space} {n j : Nat} {s : State} (h : p s) :
    (memReadRange sp n j s).All p := by
  induction n generalizing j s with
  | zero => exact h
  | succ n ih =>
    exact (memRead_all h).andThen (fun _ hs => hs) fun _ s1 hs1 => (ih hs1).andThen (fun _ hs => hs) fun _ _ hs => hs

/-! ## The dimension check -/

theorem checkDims_of_ok {s : State} (h : s.DimsOk) : checkDims s = .ok () s := by
  obtain ⟨hw, hh, hm⟩ := h
  exact if_neg (by omega)

theorem checkDims_of_not {s : State} (h : ¬ s.DimsOk) : checkDims s = .raised .badDimensions s := by
  refine if_pos ?_
  unfold State.DimsOk at h
  omega

/-- `check_dims` passes exactly on good dimensions, and never changes the state. -/
theorem checkDims_cases (s : State) :
    (s.DimsOk ∧ checkDims s = .ok () s) ∨ (¬ s.DimsOk ∧ checkDims s = .raised .badDimensions s) := by
  by_cases h : s.DimsOk
  · exact .inl ⟨h, checkDims_of_ok h⟩
  · exact .inr ⟨h, checkDims_of_not h⟩

/-! ## The start and the end of a command -/

@[simp] theorem finish_ok (u : Unit) (s : State) : finish (.ok u s) = .next { s with done := true } := rfl
@[simp] theorem finish_raised (e : CmdError) (s : State) : finish (.raised e s) = .next (raiseError e s) := rfl
@[simp] theorem finish_suspended (s : State) : finish (.suspended s) = .next s := rfl
@[simp] theorem finish_stuck (x : Fault) : finish (.stuck x) = .fault x := rfl

theorem finish_eq_next {r : Res Unit} {t : State} : finish r = .next t ↔
    (∃ s, r = .ok () s ∧ t = { s with done := true }) ∨ (∃ e s, r = .raised e s ∧ t = raiseError e s) ∨
    r = .suspended t := by
  cases r with
  | ok u s => simp only [finish_ok, Host.Outcome.next.injEq]; simp [eq_comm]
  | _ => simp [eq_comm]

theorem finish_eq_fault {r : Res Unit} {x : Fault} : finish r = .fault x ↔ r = .stuck x := by
  cases r <;> simp

theorem finish_ne_refused (r : Res Unit) (x : Refusal) : finish r ≠ .refused x := by
  cases r <;> simp

theorem runCommand_of_accepted {i : Instr} {body : State → Res Unit} {s : State} (h : accepted i s.run = true) :
    runCommand i body s = finish (body (prologue s)) := if_pos h

theorem runCommand_of_not {i : Instr} {body : State → Res Unit} {s : State} (h : accepted i s.run = false) :
    runCommand i body s = .next (raiseError .illegalCommand s) := if_neg (by simp [h])

theorem runCommand_ne_refused (i : Instr) (body : State → Res Unit) (s : State) (x : Refusal) :
    runCommand i body s ≠ .refused x := by
  unfold runCommand
  split
  · exact finish_ne_refused _ _
  · simp

/-- The state an accepted command leaves, from what every state of its body has. -/
theorem finish_all {p q : State → Prop} {r : Res Unit} {t : State} (h : r.All p) (ht : finish r = .next t)
    (hok : ∀ s, p s → q { s with done := true }) (herr : ∀ e s, p s → q (raiseError e s)) (hsus : ∀ s, p s → q s) : q t := by
  rcases finish_eq_next.1 ht with ⟨s, rfl, rfl⟩ | ⟨e, s, rfl, rfl⟩ | rfl
  · exact hok s h
  · exact herr e s h
  · exact hsus t h

end Sys2Proof.Machine
end

