-- ==== Sys2Proof/Laws/HostPort.lean ====
section
/-! SUPPORT. The laws of the host port: the register map both ways, a write to `CMD`, and the byte accesses of the host by case. -/

namespace Sys2Proof.Machine

/-! ## The register map -/

@[simp] theorem csrAt_offset (r : Csr) : csrAt r.offset = some r := by cases r <;> rfl

theorem offset_of_csrAt {off : Nat} {r : Csr} (h : csrAt off = some r) : r.offset = off := by
  unfold csrAt at h
  split at h <;> first | (cases h; rfl) | (simp at h)

/-- The offsets of the register map are the multiples of 4 below 0x58 (rules R23, R67). -/
theorem csrAt_isSome {off : Nat} : (csrAt off).isSome = true ↔ off % 4 = 0 ∧ off < 0x58 := by
  constructor
  · intro h
    unfold csrAt at h
    split at h <;> first | decide | (simp at h)
  · rintro ⟨h4, hlt⟩
    obtain ⟨k, rfl⟩ : ∃ k, off = 4 * k := ⟨off / 4, by omega⟩
    have hk : k < 22 := by omega
    revert hk
    clear h4 hlt
    revert k
    decide

theorem csrTarget_word (off : Nat) : csrTarget .word off = csrAt off := rfl

theorem csrTarget_narrow {wd : CsrWidth} {off : Nat} (h : wd ≠ .word) : csrTarget wd off = none := by
  cases wd <;> simp_all [csrTarget]

/-! ## Transactions -/

theorem step_of_inbox {s : State} {x : HostTxn} {rest : List HostTxn} (h : s.inbox = x :: rest) :
    step s = performTxn x { s with inbox := rest } := by
  simp only [step, hostStep, h]

/-- A write to `CMD` is never refused: it starts the command its word decodes to (rules R24, R69). -/
theorem performTxn_cmd (w : Word) (s : State) :
    performTxn (.csrWrite .word 0x00 w) s = startCommand w (respond .performed s) := rfl

theorem hostRead_of_lt {sp : Space} {a : Nat} {s : State} (h : a < spaceSize s.cfg sp) :
    hostRead sp a s = respond (.byte ((s.mem sp).read a)) s := if_pos h

theorem hostRead_of_ge {sp : Space} {a : Nat} {s : State} (h : spaceSize s.cfg sp ≤ a) :
    hostRead sp a s = refuseTxn s := if_neg (by omega)

theorem hostWrite_of_ok {sp : Space} {a : Nat} {v : Byte} {s : State} (hr : s.run = .idle)
    (h : a < spaceSize s.cfg sp) : hostWrite sp a v s = respond .performed (s.setMem sp ((s.mem sp).write a v)) :=
  if_pos (by simp [hostMayWrite, hr, h])

theorem hostWrite_of_ge {sp : Space} {a : Nat} {v : Byte} {s : State} (h : spaceSize s.cfg sp ≤ a) :
    hostWrite sp a v s = refuseTxn s := if_neg (by simp [Nat.not_lt.2 h])

theorem hostWrite_of_gatewait {sp : Space} {a : Nat} {v : Byte} {s : State} (hr : s.run = .gatewait) :
    hostWrite sp a v s = refuseTxn s := if_neg (by simp [hostMayWrite, hr])

theorem hostReadRbuf_of_ok {j : Nat} {s : State} (hv : s.rvalid = true) (hj : j < s.flen.toNat) :
    hostReadRbuf j s = hostRead .rbuf j s := if_pos (by simp [hv, hj])

theorem hostReadRbuf_of_not {j : Nat} {s : State} (h : s.rvalid = false ∨ s.flen.toNat ≤ j) :
    hostReadRbuf j s = refuseTxn s := by
  refine if_neg ?_
  rcases h with h | h
  · simp [h]
  · simp [Nat.not_lt.2 h]

end Sys2Proof.Machine
end

