-- ==== Sys2Proof/Laws/Mux.lean ====
section
/-! SUPPORT. What the multiplexer can do, said once: pixel addresses stay inside PIX and are distinct for distinct pixels and
channels, the two checks, and the whole effect of `mux_rd` and `mux_wr` on PIX and `TRIP`. -/

namespace Sys2Proof.Machine

/-! ## Pixel addresses -/

theorem pixel_index_lt {w h x y : Nat} (hx : x < w) (hy : y < h) : y * w + x < w * h := by
  have : (y + 1) * w ≤ h * w := Nat.mul_le_mul_right w hy
  rw [Nat.add_mul, Nat.one_mul] at this
  rw [Nat.mul_comm w h]
  omega

/-- A channel of a pixel of an image that fits PIX is inside PIX. -/
theorem pixAddr_lt {s : State} {x y k : Nat} (hf : s.width.toNat * s.height.toNat ≤ s.cfg.maxPixels)
    (hx : x < s.width.toNat) (hy : y < s.height.toNat) (hk : k < 4) : s.pixAddr x y k < spaceSize s.cfg .pix := by
  have := pixel_index_lt hx hy
  simp only [State.pixAddr, pixAddr, spaceSize]
  omega

/-- Distinct pixels of an image, and distinct channels of one pixel, are at distinct addresses. -/
theorem pixAddr_inj {w x y k x' y' k' : Nat} (hx : x < w) (hx' : x' < w) (hk : k < 4) (hk' : k' < 4) :
    pixAddr w x y k = pixAddr w x' y' k' ↔ x = x' ∧ y = y' ∧ k = k' := by
  constructor
  · intro h
    simp only [pixAddr] at h
    have hi : y * w + x = y' * w + x' := by omega
    have hw : 0 < w := by omega
    have hd : ∀ a b, b < w → (a * w + b) / w = a := fun a b hb => by
      rw [Nat.mul_comm, Nat.mul_add_div hw, Nat.div_eq_of_lt hb, Nat.add_zero]
    have hy : y = y' := by rw [← hd y x hx, ← hd y' x' hx', hi]
    subst hy
    omega
  · rintro ⟨rfl, rfl, rfl⟩
    rfl

/-- The channel of an address: `c = a mod 4` (rule R62). -/
theorem pixAddr_mod {w x y k : Nat} (hk : k < 4) : pixAddr w x y k % 4 = k := by
  unfold pixAddr
  omega

/-! ## The check -/

theorem checkXy_of_ok {s : State} (h : s.XyOk) : checkXy s = .ok () s := by
  obtain ⟨hm, hx, hy⟩ := h
  exact if_neg (by omega)

theorem checkXy_of_not {s : State} (h : ¬ s.XyOk) : checkXy s = .raised .pixelRange s := by
  refine if_pos ?_
  unfold State.XyOk at h
  omega

/-- `check_xy` passes exactly inside the image, and never changes the state. -/
theorem checkXy_cases (s : State) :
    (s.XyOk ∧ checkXy s = .ok () s) ∨ (¬ s.XyOk ∧ checkXy s = .raised .pixelRange s) := by
  by_cases h : s.XyOk
  · exact .inl ⟨h, checkXy_of_ok h⟩
  · exact .inr ⟨h, checkXy_of_not h⟩

/-! ## Slots and bits -/

theorem bits3 : ∀ x y z : Bool,
    (BitVec.ofBool z ++ BitVec.ofBool y ++ BitVec.ofBool x).getLsbD 0 = x ∧
    (BitVec.ofBool z ++ BitVec.ofBool y ++ BitVec.ofBool x).getLsbD 1 = y ∧
    (BitVec.ofBool z ++ BitVec.ofBool y ++ BitVec.ofBool x).getLsbD 2 = z := by decide

@[simp] theorem tripOfSlots_v0 (a b c : Slot) : (tripOfSlots a b c).v.getLsbD 0 = a.value := (bits3 _ _ _).1
@[simp] theorem tripOfSlots_v1 (a b c : Slot) : (tripOfSlots a b c).v.getLsbD 1 = b.value := (bits3 _ _ _).2.1
@[simp] theorem tripOfSlots_v2 (a b c : Slot) : (tripOfSlots a b c).v.getLsbD 2 = c.value := (bits3 _ _ _).2.2
@[simp] theorem tripOfSlots_p0 (a b c : Slot) : (tripOfSlots a b c).p.getLsbD 0 = a.present := (bits3 _ _ _).1
@[simp] theorem tripOfSlots_p1 (a b c : Slot) : (tripOfSlots a b c).p.getLsbD 1 = b.present := (bits3 _ _ _).2.1
@[simp] theorem tripOfSlots_p2 (a b c : Slot) : (tripOfSlots a b c).p.getLsbD 2 = c.present := (bits3 _ _ _).2.2

@[simp] theorem tripOfSlots_slot0 (a b c : Slot) : (tripOfSlots a b c).slot 0 = a := by
  unfold Trip.slot; rw [tripOfSlots_p0, tripOfSlots_v0]; cases a <;> rfl
@[simp] theorem tripOfSlots_slot1 (a b c : Slot) : (tripOfSlots a b c).slot 1 = b := by
  unfold Trip.slot; rw [tripOfSlots_p1, tripOfSlots_v1]; cases b <;> rfl
@[simp] theorem tripOfSlots_slot2 (a b c : Slot) : (tripOfSlots a b c).slot 2 = c := by
  unfold Trip.slot; rw [tripOfSlots_p2, tripOfSlots_v2]; cases c <;> rfl

/-- Bit 0 of a channel byte after `setLsb` is the bit; the other bits are as before. -/
theorem setLsb_lsb : ∀ (old : Byte) (b : Bool), lsb (setLsb old b) = b := by decide
theorem setLsb_high : ∀ (old : Byte) (b : Bool), setLsb old b >>> 1 = old >>> 1 := by decide

/-! ## Reading a pixel -/

/-- Rule R177, inside an image that fits PIX: the three LSBs go to `TRIP`, every slot present, and nothing else changes. -/
theorem muxRd_ok {s : State} {x y : Nat} (hf : s.width.toNat * s.height.toNat ≤ s.cfg.maxPixels)
    (hx : x < s.width.toNat) (hy : y < s.height.toNat) :
    muxRd x y s = .ok () { s with
      trip := tripOfSlots (.bit (s.lsbAt (x, y) 0)) (.bit (s.lsbAt (x, y) 1)) (.bit (s.lsbAt (x, y) 2)) } := by
  have h : ∀ k, k < 4 → memRead .pix (s.pixAddr x y k) s = .ok (s.pix.read (s.pixAddr x y k)) s :=
    fun k hk => memRead_of_lt (pixAddr_lt hf hx hy hk)
  simp only [muxRd, h 0 (by omega), h 1 (by omega), h 2 (by omega), andThen_ok]
  rfl

/-- `mux_rd` writes `TRIP` only, wherever it is. -/
theorem muxRd_all {p : State → Prop} {x y : Nat} {s : State} (h : ∀ t : Trip, p { s with trip := t }) :
    (muxRd x y s).All p := by
  simp only [muxRd, memRead]
  split <;> simp only [andThen_ok, andThen_stuck, all_stuck]
  split <;> simp only [andThen_ok, andThen_stuck, all_stuck]
  split <;> simp only [andThen_ok, andThen_stuck, all_stuck]
  exact h _

/-! ## Writing a pixel -/

/-- What one slot of `mux_wr` makes of PIX (rule R176). -/
def slotPix (t : Trip) (a k : Nat) (m : Memory) : Memory :=
  match t.slot k with
  | .absent => m
  | .bit b => m.write a (setLsb (m.read a) b)

theorem slotPix_wf {t : Trip} {a k : Nat} {m : Memory} (h : m.wf = true) : (slotPix t a k m).wf = true := by
  unfold slotPix
  split
  · exact h
  · exact Memory.wf_write h

theorem slotPix_below {t : Trip} {a k n : Nat} {m : Memory} (h : m.below n = true) (ha : a < n) :
    (slotPix t a k m).below n = true := by
  unfold slotPix
  split
  · exact h
  · exact Memory.below_write h ha

theorem slotPix_other {t : Trip} {a b k : Nat} {m : Memory} (h : t.slot k ≠ .absent → b ≠ a) :
    (slotPix t a k m).read b = m.read b := by
  unfold slotPix
  split
  · rfl
  · rename_i hk
    exact Memory.read_write_other (h (by simp [hk]))

theorem slotPix_same {t : Trip} {a k : Nat} {m : Memory} (h : m.wf = true) :
    (slotPix t a k m).read a =
      match t.slot k with
      | .absent => m.read a
      | .bit b => setLsb (m.read a) b := by
  unfold slotPix
  split
  · rfl
  · exact Memory.read_write_same h

theorem muxWrSlot_ok {s : State} {x y k : Nat} (hf : s.width.toNat * s.height.toNat ≤ s.cfg.maxPixels)
    (hx : x < s.width.toNat) (hy : y < s.height.toNat) (hk : k < 4) :
    muxWrSlot x y k s = .ok () { s with pix := slotPix s.trip (s.pixAddr x y k) k s.pix } := by
  have ha := pixAddr_lt hf hx hy hk
  cases h : s.trip.slot k with
  | absent => simp only [muxWrSlot, slotPix, h]
  | bit b =>
    simp only [muxWrSlot, slotPix, h, memRead_of_lt ha, andThen_ok, memWrite_of_lt ha]
    rfl

/-- What `mux_wr(x, y)` makes of PIX (rule R176). -/
def muxPix (s : State) (x y : Nat) : Memory :=
  slotPix s.trip (s.pixAddr x y 2) 2 (slotPix s.trip (s.pixAddr x y 1) 1 (slotPix s.trip (s.pixAddr x y 0) 0 s.pix))

/-- Rule R176, inside an image that fits PIX: PIX becomes `muxPix`, and nothing else changes. -/
theorem muxWr_ok {s : State} {x y : Nat} (hf : s.width.toNat * s.height.toNat ≤ s.cfg.maxPixels)
    (hx : x < s.width.toNat) (hy : y < s.height.toNat) : muxWr x y s = .ok () { s with pix := muxPix s x y } := by
  rw [muxWr, muxWrSlot_ok hf hx hy (by omega), andThen_ok]
  rw [muxWrSlot_ok (by exact hf) (by exact hx) (by exact hy) (by omega), andThen_ok]
  rw [muxWrSlot_ok (by exact hf) (by exact hx) (by exact hy) (by omega)]
  rfl

theorem muxPix_wf {s : State} {x y : Nat} (h : s.pix.wf = true) : (muxPix s x y).wf = true :=
  slotPix_wf (slotPix_wf (slotPix_wf h))

theorem muxPix_below {s : State} {x y : Nat} (hf : s.width.toNat * s.height.toNat ≤ s.cfg.maxPixels)
    (hx : x < s.width.toNat) (hy : y < s.height.toNat) (h : s.pix.below (spaceSize s.cfg .pix) = true) :
    (muxPix s x y).below (spaceSize s.cfg .pix) = true :=
  slotPix_below (slotPix_below (slotPix_below h (pixAddr_lt hf hx hy (by omega))) (pixAddr_lt hf hx hy (by omega)))
    (pixAddr_lt hf hx hy (by omega))

/-- A byte that is no channel of a present slot of the pixel is as before. -/
theorem muxPix_other {s : State} {x y a : Nat} (h : ∀ k, k < 3 → s.trip.slot k ≠ .absent → a ≠ s.pixAddr x y k) :
    (muxPix s x y).read a = s.pix.read a := by
  rw [muxPix, slotPix_other (h 2 (by omega)), slotPix_other (h 1 (by omega)), slotPix_other (h 0 (by omega))]

/-- The channel of a slot holds the slot's bit in bit 0 if the slot is present, and is as before otherwise. -/
theorem muxPix_slot {s : State} {x y k : Nat} (hw : s.pix.wf = true) (hk : k < 3) :
    (muxPix s x y).read (s.pixAddr x y k) =
      match s.trip.slot k with
      | .absent => s.pix.read (s.pixAddr x y k)
      | .bit b => setLsb (s.pix.read (s.pixAddr x y k)) b := by
  have hne : ∀ i j, i ≠ j → s.pixAddr x y i ≠ s.pixAddr x y j := fun i j hij h => by
    simp only [State.pixAddr, pixAddr] at h
    omega
  have h0 := slotPix_wf (t := s.trip) (a := s.pixAddr x y 0) (k := 0) hw
  have h1 := slotPix_wf (t := s.trip) (a := s.pixAddr x y 1) (k := 1) h0
  obtain rfl | rfl | rfl : k = 0 ∨ k = 1 ∨ k = 2 := by omega
  · rw [muxPix, slotPix_other fun _ => hne 0 2 (by omega), slotPix_other fun _ => hne 0 1 (by omega), slotPix_same hw]
  · rw [muxPix, slotPix_other fun _ => hne 1 2 (by omega), slotPix_same h0, slotPix_other fun _ => hne 1 0 (by omega)]
  · rw [muxPix, slotPix_same h1, slotPix_other fun _ => hne 2 1 (by omega), slotPix_other fun _ => hne 2 0 (by omega)]

/-- `mux_wr` writes PIX only, wherever it is. -/
theorem muxWr_all {p : State → Prop} {x y : Nat} {s : State} (h : ∀ q : Memory, p { s with pix := q }) :
    (muxWr x y s).All p := by
  have slot : ∀ k (u : State), (∃ q, u = { s with pix := q }) →
      (muxWrSlot x y k u).All fun v => ∃ q, v = { s with pix := q } := by
    rintro k u ⟨q, rfl⟩
    unfold muxWrSlot
    split
    · exact ⟨q, rfl⟩
    · simp only [memRead]
      split
      · simp only [andThen_ok, memWrite]
        split
        · exact ⟨_, rfl⟩
        · trivial
      · trivial
  refine Res.All.mono (p := fun v => ∃ q, v = { s with pix := q }) ?_ (by rintro _ ⟨q, rfl⟩; exact h q)
  refine (slot 0 s ⟨s.pix, rfl⟩).andThen (fun _ hu => hu) fun _ s1 h1 => ?_
  exact (slot 1 s1 h1).andThen (fun _ hu => hu) fun _ s2 h2 => slot 2 s2 h2

end Sys2Proof.Machine
end

