-- ==== Sys2Proof/Laws/Sequencer.lean ====
section
/-! SUPPORT. What the generator and the sequencer can do, said once: a range stays below its bound, a redraw gives a fresh
coordinate of the image, a request answers in one of three ways, and requests depend on the sequencer's state alone. -/

namespace Sys2Proof.Machine

theorem refRangeLoop_lt {t n fuel : Nat} {s s1 : DWord} {v : Nat} (hn : 1 ≤ n)
    (h : refRangeLoop t n fuel s = some (v, s1)) : v < n := by
  induction fuel generalizing s with
  | zero => simp [refRangeLoop] at h
  | succ fuel ih =>
    rw [refRangeLoop] at h
    split at h
    · simp only [Option.some.injEq, Prod.mk.injEq] at h
      exact h.1 ▸ Nat.mod_lt _ hn
    · exact ih h

/-- Law L2 of rule R143. -/
theorem prngRange_lt {g : Prng} {st n v st1 : Nat} (hn : 1 ≤ n) (h : prngRange g st n = some (v, st1)) : v < n := by
  cases g with
  | ref =>
    simp only [prngRange, refRange] at h
    split at h
    · rename_i w s1 hw
      simp only [Option.some.injEq, Prod.mk.injEq] at h
      exact h.1 ▸ refRangeLoop_lt hn hw
    · simp at h
  | other k =>
    simp only [prngRange, Option.some.injEq, Prod.mk.injEq] at h
    exact h.1 ▸ Nat.mod_lt _ hn

/-- A draw is two calls of the generator, `x` first (rule R164). -/
theorem drawCoord_of {g : Prng} {sw sh st x s1 y s2 : Nat} (h1 : prngRange g st sw = some (x, s1))
    (h2 : prngRange g s1 sh = some (y, s2)) : drawCoord g sw sh st = some ((x, y), s2) := by
  simp only [drawCoord, h1, h2]

theorem drawCoord_inside {g : Prng} {sw sh st st1 : Nat} {xy : Coord} (hw : 1 ≤ sw) (hh : 1 ≤ sh)
    (h : drawCoord g sw sh st = some (xy, st1)) : xy.1 < sw ∧ xy.2 < sh := by
  unfold drawCoord at h
  split at h
  · simp at h
  · rename_i x s1 hx
    split at h
    · simp at h
    · rename_i y s2 hy
      simp only [Option.some.injEq, Prod.mk.injEq] at h
      obtain ⟨rfl, -⟩ := h
      exact ⟨prngRange_lt hw hx, prngRange_lt hh hy⟩

/-- A redraw that ends gives a draw that is not in `USED`. -/
theorem redraw_fresh {g : Prng} {sw sh fuel st st1 : Nat} {used : List Coord} {xy : Coord}
    (h : redraw g sw sh used fuel st = some (xy, st1)) :
    xy ∉ used ∧ ∃ st0, drawCoord g sw sh st0 = some (xy, st1) := by
  induction fuel generalizing st with
  | zero => simp [redraw] at h
  | succ fuel ih =>
    rw [redraw] at h
    split at h
    · simp at h
    · rename_i xy1 s1 hd
      split at h
      · exact ih h
      · rename_i hu
        simp only [Option.some.injEq, Prod.mk.injEq] at h
        obtain ⟨rfl, rfl⟩ := h
        exact ⟨hu, st, hd⟩

/-- One turn of the redraw loop on a coordinate that is used (rule R162). -/
theorem redraw_used {g : Prng} {sw sh fuel st st1 : Nat} {used : List Coord} {xy : Coord}
    (h : drawCoord g sw sh st = some (xy, st1)) (hu : xy ∈ used) :
    redraw g sw sh used (fuel + 1) st = redraw g sw sh used fuel st1 := by
  simp only [redraw, h, if_pos hu]

/-- The redraw loop ends on a coordinate that is not used (rule R162). -/
theorem redraw_new {g : Prng} {sw sh fuel st st1 : Nat} {used : List Coord} {xy : Coord}
    (h : drawCoord g sw sh st = some (xy, st1)) (hu : xy ∉ used) :
    redraw g sw sh used (fuel + 1) st = some (xy, st1) := by
  simp only [redraw, h, if_neg hu]

/-! ## A request -/

theorem seqNext_full {s : State} (h : s.sw.toNat * s.sh.toNat ≤ s.seqCnt) : seqNext s = .raised .seqExhausted s := if_pos h

theorem seqNext_sequential {s : State} (h : s.seqCnt < s.sw.toNat * s.sh.toNat) (hm : s.smode = .seq) :
    seqNext s = .ok (s.seqCnt % s.sw.toNat, s.seqCnt / s.sw.toNat)
      { s with seqCnt := s.seqCnt + 1, seqX := BitVec.ofNat 32 (s.seqCnt % s.sw.toNat),
               seqY := BitVec.ofNat 32 (s.seqCnt / s.sw.toNat) } := by
  unfold seqNext
  rw [if_neg (by omega)]
  split
  · rfl
  · simp_all

theorem seqNext_random {s : State} {xy : Coord} {st : Nat} (h : s.seqCnt < s.sw.toNat * s.sh.toNat) (hm : s.smode = .rng)
    (hd : redraw s.cfg.prng s.sw.toNat s.sh.toNat s.used drawBound s.prngS = some (xy, st)) :
    seqNext s = .ok xy
      { s with seqCnt := s.seqCnt + 1, seqX := BitVec.ofNat 32 xy.1, seqY := BitVec.ofNat 32 xy.2, prngS := st,
               used := xy :: s.used } := by
  unfold seqNext
  rw [if_neg (by omega)]
  split
  · simp_all
  · simp only [hd]
    rfl

theorem seqNext_hang {s : State} (h : s.seqCnt < s.sw.toNat * s.sh.toNat) (hm : s.smode = .rng)
    (hd : redraw s.cfg.prng s.sw.toNat s.sh.toNat s.used drawBound s.prngS = none) : seqNext s = .stuck .hang := by
  unfold seqNext
  rw [if_neg (by omega)]
  split
  · simp_all
  · simp only [hd]

/-- What a request that is answered with `xy` leaves. -/
structure Emitted (xy : Coord) (s t : State) : Prop where
  room : s.seqCnt < s.sw.toNat * s.sh.toNat
  inside : xy.1 < s.sw.toNat ∧ xy.2 < s.sh.toNat
  rest : t = { s with seqCnt := s.seqCnt + 1, seqX := BitVec.ofNat 32 xy.1, seqY := BitVec.ofNat 32 xy.2,
                      prngS := t.prngS, used := t.used }
  sequential : s.smode = .seq →
    xy = (s.seqCnt % s.sw.toNat, s.seqCnt / s.sw.toNat) ∧ t.prngS = s.prngS ∧ t.used = s.used
  random : s.smode = .rng → xy ∉ s.used ∧ t.used = xy :: s.used

/-- A request answers with a coordinate, or raises `SeqExhausted` with the state untouched, or (Random mode only) hangs. -/
theorem seqNext_cases (s : State) :
    (∃ xy t, seqNext s = .ok xy t ∧ Emitted xy s t) ∨
    (s.sw.toNat * s.sh.toNat ≤ s.seqCnt ∧ seqNext s = .raised .seqExhausted s) ∨
    (s.smode = .rng ∧ s.seqCnt < s.sw.toNat * s.sh.toNat ∧ seqNext s = .stuck .hang) := by
  rcases Nat.lt_or_ge s.seqCnt (s.sw.toNat * s.sh.toNat) with h | h
  · have hw : 1 ≤ s.sw.toNat := Nat.pos_of_ne_zero (by rintro h0; simp [h0] at h)
    have hh : 1 ≤ s.sh.toNat := Nat.pos_of_ne_zero (by rintro h0; simp [h0] at h)
    cases hm : s.smode with
    | seq =>
      refine .inl ⟨_, _, seqNext_sequential h hm, ⟨h, ⟨Nat.mod_lt _ hw, ?_⟩, rfl, fun _ => ⟨rfl, rfl, rfl⟩, ?_⟩⟩
      · exact Nat.div_lt_of_lt_mul h
      · simp [hm]
    | rng =>
      cases hd : redraw s.cfg.prng s.sw.toNat s.sh.toNat s.used drawBound s.prngS with
      | none => exact .inr (.inr ⟨rfl, h, seqNext_hang h hm hd⟩)
      | some p =>
        obtain ⟨xy, st⟩ := p
        obtain ⟨hf, st0, h0⟩ := redraw_fresh hd
        refine .inl ⟨_, _, seqNext_random h hm hd, ⟨h, drawCoord_inside hw hh h0, rfl, ?_, fun _ => ⟨hf, rfl⟩⟩⟩
        simp [hm]
  · exact .inr (.inl ⟨h, seqNext_full h⟩)

theorem seqNext_ok {s t : State} {xy : Coord} (h : seqNext s = .ok xy t) : Emitted xy s t := by
  rcases seqNext_cases s with ⟨xy', t', h', he⟩ | ⟨-, h'⟩ | ⟨-, -, h'⟩ <;> rw [h'] at h <;> simp at h
  obtain ⟨rfl, rfl⟩ := h
  exact he

/-! ## Requests depend on the sequencer's state alone -/

/-- Two states agree on what a request reads. -/
structure SeqAgree (s t : State) : Prop where
  prng : s.cfg.prng = t.cfg.prng
  sw : s.sw = t.sw
  sh : s.sh = t.sh
  smode : s.smode = t.smode
  seqCnt : s.seqCnt = t.seqCnt
  prngS : s.prngS = t.prngS
  used : s.used = t.used

theorem SeqAgree.refl (s : State) : SeqAgree s s := ⟨rfl, rfl, rfl, rfl, rfl, rfl, rfl⟩

/-- States that agree answer a request with the same coordinate, and go on agreeing. -/
theorem seqNext_agree {s t s1 : State} {xy : Coord} (h : SeqAgree s t) (hs : seqNext s = .ok xy s1) :
    ∃ t1, seqNext t = .ok xy t1 ∧ SeqAgree s1 t1 := by
  obtain ⟨h1, h2, h3, h4, h5, h6, h7⟩ := h
  rcases Nat.lt_or_ge s.seqCnt (s.sw.toNat * s.sh.toNat) with hc | hc
  · have hc' : t.seqCnt < t.sw.toNat * t.sh.toNat := by rw [← h2, ← h3, ← h5]; exact hc
    cases hm : s.smode with
    | seq =>
      rw [seqNext_sequential hc hm] at hs
      simp only [Res.ok.injEq] at hs
      obtain ⟨rfl, rfl⟩ := hs
      have ht := seqNext_sequential hc' (h4 ▸ hm)
      rw [← h5, ← h2] at ht
      exact ⟨_, ht, ⟨h1, rfl, h3, h4, rfl, h6, h7⟩⟩
    | rng =>
      cases hd : redraw s.cfg.prng s.sw.toNat s.sh.toNat s.used drawBound s.prngS with
      | none => rw [seqNext_hang hc hm hd] at hs; simp at hs
      | some p =>
        obtain ⟨c, st⟩ := p
        rw [seqNext_random hc hm hd] at hs
        simp only [Res.ok.injEq] at hs
        obtain ⟨rfl, rfl⟩ := hs
        rw [h1, h2, h3, h6, h7] at hd
        exact ⟨_, seqNext_random hc' (h4 ▸ hm) hd, ⟨h1, h2, h3, h4, by simp [h5], rfl, by simp [h7]⟩⟩
  · rw [seqNext_full hc] at hs; simp at hs

theorem coordsFrom_succ {n : Nat} {s : State} {cs : List Coord} : coordsFrom (n + 1) s = some cs ↔
    ∃ xy t ds, seqNext s = .ok xy t ∧ coordsFrom n t = some ds ∧ cs = xy :: ds := by
  rw [coordsFrom]
  cases seqNext s with
  | ok xy t => cases h : coordsFrom n t <;> simp [h, eq_comm]
  | _ => simp

theorem coordsFrom_agree {n : Nat} {s t : State} {cs : List Coord} (h : SeqAgree s t) (hs : coordsFrom n s = some cs) :
    coordsFrom n t = some cs := by
  induction n generalizing s t cs with
  | zero => exact hs
  | succ n ih =>
    obtain ⟨xy, s1, ds, h1, h2, rfl⟩ := coordsFrom_succ.1 hs
    obtain ⟨t1, ht, ha⟩ := seqNext_agree h h1
    exact coordsFrom_succ.2 ⟨xy, t1, ds, ht, ih ha h2, rfl⟩

end Sys2Proof.Machine
end

