-- ==== Sys2Proof/Laws/Macro.lean ====
section
/-! SUPPORT. What the pieces of the controller's commands can change, said once: a request, pulling bits, the payload loop of
EXTRACT, the tail, and the triplet loop of EMBED; and one pull of a bit written out. -/

namespace Sys2Proof.Machine

/-! ## What may change -/

/-- Apart from the sequencer's registers, `TRIP` and `BITPOS`, `t` is `s`. -/
def Pulled (s t : State) : Prop :=
  t = { s with bitpos := t.bitpos, trip := t.trip, seqX := t.seqX, seqY := t.seqY, seqCnt := t.seqCnt,
               prngS := t.prngS, used := t.used }

theorem Pulled.refl (s : State) : Pulled s s := rfl

theorem Pulled.trans {s t u : State} (h1 : Pulled s t) (h2 : Pulled t u) : Pulled s u := by
  unfold Pulled at *
  rw [h2, h1]

/-- Apart from what pulling bits changes and RBUF, `CRC_ACC`, `CRC_EXP`, `CRCOK`, `RVALID`, `t` is `s`. -/
def Tailed (s t : State) : Prop :=
  t = { s with bitpos := t.bitpos, trip := t.trip, seqX := t.seqX, seqY := t.seqY, seqCnt := t.seqCnt,
               prngS := t.prngS, used := t.used, rbuf := t.rbuf, crcAcc := t.crcAcc, crcExp := t.crcExp,
               crcok := t.crcok, rvalid := t.rvalid }

theorem Tailed.refl (s : State) : Tailed s s := rfl

theorem Tailed.trans {s t u : State} (h1 : Tailed s t) (h2 : Tailed t u) : Tailed s u := by
  unfold Tailed at *
  rw [h2, h1]

theorem Pulled.tailed {s t : State} (h : Pulled s t) : Tailed s t := by
  unfold Pulled Tailed at *
  rw [h]

/-- Apart from what pulling bits changes and PIX, `t` is `s`. -/
def Written (s t : State) : Prop :=
  t = { s with bitpos := t.bitpos, trip := t.trip, seqX := t.seqX, seqY := t.seqY, seqCnt := t.seqCnt,
               prngS := t.prngS, used := t.used, pix := t.pix }

theorem Written.refl (s : State) : Written s s := rfl

theorem Written.trans {s t u : State} (h1 : Written s t) (h2 : Written t u) : Written s u := by
  unfold Written at *
  rw [h2, h1]

theorem Pulled.written {s t : State} (h : Pulled s t) : Written s t := by
  unfold Pulled Written at *
  rw [h]

/-! ## The pieces -/

theorem seqNext_pulled (s : State) : (seqNext s).All (Pulled s) := by
  rcases seqNext_cases s with ⟨xy, t, h, he⟩ | ⟨-, h⟩ | ⟨-, -, h⟩ <;> rw [h]
  · have := he.rest
    rw [all_ok, Pulled, this]
  · exact Pulled.refl s
  · trivial

theorem pullPixel_pulled (s : State) : (pullPixel s).All (Pulled s) := by
  unfold pullPixel
  split
  · refine (seqNext_pulled s).andThen (fun _ h => h) fun _ s1 h1 => ?_
    exact muxRd_all fun _ => h1.trans rfl
  · exact Pulled.refl s

theorem pullBit_pulled (s : State) : (pullBit s).All (Pulled s) :=
  (pullPixel_pulled s).andThen (fun _ h => h) fun _ _ h1 => h1.trans rfl

theorem pullBits_pulled (n v : Nat) (s : State) : (pullBits n v s).All (Pulled s) := by
  induction n generalizing v s with
  | zero => exact Pulled.refl s
  | succ n ih => exact (pullBit_pulled s).andThen (fun _ h => h) fun _ s1 h1 => (ih _ s1).mono fun _ h => h1.trans h

theorem pullField_pulled (n : Nat) (s : State) : (pullField n s).All (Pulled s) := pullBits_pulled n 0 s

theorem extractPayload_tailed (n j : Nat) (s : State) : (extractPayload n j s).All (Tailed s) := by
  induction n generalizing j s with
  | zero => exact Tailed.refl s
  | succ n ih =>
    refine ((pullField_pulled 8 s).mono fun _ h => h.tailed).andThen (fun _ h => h) fun v s1 h1 => ?_
    simp only [memWrite]
    split
    · refine (ih _ _).mono fun _ h => h1.trans (Tailed.trans ?_ h)
      rfl
    · trivial

theorem extractVerify_tailed (s : State) : (extractVerify s).All (Tailed s) := by
  unfold extractVerify
  split <;> rfl

theorem extractTail_tailed (s : State) : (extractTail s).All (Tailed s) := by
  unfold extractTail
  split
  · exact Tailed.refl s
  · refine (extractPayload_tailed _ 0 s).andThen (fun _ h => h) fun _ s1 h1 => ?_
    refine ((pullField_pulled 32 s1).mono fun _ h => h1.trans h.tailed).andThen (fun _ h => h) fun _ s2 h2 => ?_
    refine (extractVerify_tailed _).mono fun _ h => h2.trans (Tailed.trans ?_ h)
    rfl

theorem embedLoop_written (payload : List Byte) (c : Word) (r n k : Nat) (s : State) :
    (embedLoop payload c r n k s).All (Written s) := by
  induction n generalizing k s with
  | zero => exact Written.refl s
  | succ n ih =>
    refine ((seqNext_pulled s).mono fun _ h => h.written).andThen (fun _ h => h) fun xy s1 h1 => ?_
    refine Res.All.andThen (p := Written s) ?_ (fun _ h => h) fun _ s2 h2 => ?_
    · exact muxWr_all fun _ => h1.trans rfl
    · refine (ih _ _).mono fun _ h => h2.trans (Written.trans ?_ h)
      rfl

/-! ## One pull, written out -/

/-- The second and third bits of a pixel come from `TRIP` (rule R200). -/
theorem pullBit_held {s : State} (h : s.bitpos % 3 ≠ 0) :
    pullBit s = .ok (s.trip.v.getLsbD (s.bitpos % 3)) { s with bitpos := s.bitpos + 1 } := by
  simp only [pullBit, pullPixel, if_neg h, andThen_ok]

/-- The first bit of a pixel asks for the pixel (rule R200), in a state whose sequencer is latched on an image that fits PIX. -/
theorem pullBit_fresh {s t : State} {xy : Coord} (h : s.bitpos % 3 = 0) (hs : seqNext s = .ok xy t)
    (hw : s.sw = s.width) (hh : s.sh = s.height) (hf : s.width.toNat * s.height.toNat ≤ s.cfg.maxPixels) :
    pullBit s = .ok (s.lsbAt xy 0) { t with
      trip := tripOfSlots (.bit (s.lsbAt xy 0)) (.bit (s.lsbAt xy 1)) (.bit (s.lsbAt xy 2)), bitpos := s.bitpos + 1 } := by
  have he := seqNext_ok hs
  have ht := he.rest
  obtain ⟨hx, hy⟩ := he.inside
  have hb : t.bitpos = s.bitpos := by rw [ht]
  have hl : ∀ k, t.lsbAt xy k = s.lsbAt xy k := fun k => by rw [ht]; rfl
  have hr : muxRd xy.1 xy.2 t = _ := muxRd_ok (by rw [ht]; exact hf) (by rw [ht]; exact hw ▸ hx) (by rw [ht]; exact hh ▸ hy)
  rw [pullBit, pullPixel, if_pos h, hs, andThen_ok, hr, andThen_ok]
  simp only [hb, h, hl, tripOfSlots_v0, Slot.value]

/-- The request of a pull passes on its error, its state as it was. -/
theorem pullBit_exhausted {s : State} (h : s.bitpos % 3 = 0) (hs : s.sw.toNat * s.sh.toNat ≤ s.seqCnt) :
    pullBit s = .raised .seqExhausted s := by
  simp only [pullBit, pullPixel, if_pos h, seqNext_full hs, andThen_raised]

end Sys2Proof.Machine
end

