-- ==== Sys2Proof/Laws/PerInstr.lean ====
section
/-! SUPPORT. The family "Row", one lemma per command: the word the encoder writes matches the row of the opcode map (rule R93) that
has the command's mnemonic and format, and the command is well formed. -/

namespace Sys2Proof.Laws.Row

/-- A row of the opcode map has the command's mnemonic and format, and the command's word matches it. -/
def Statement (i : Instr) : Prop :=
  i.wf = true ∧ (opTable.any fun r => r.mnemonic == i.mnemonic && r.format == i.format && r.hits (encode i)) = true

theorem nop : Statement .nop := by constructor <;> decide
theorem clr : Statement .clr := by constructor <;> decide
theorem crcInit : Statement .crcInit := by constructor <;> decide
theorem crcByte (imm8 : Byte) : Statement (.crcByte imm8) := by
  refine ⟨rfl, ?_⟩
  revert imm8
  decide +kernel
theorem crcBuf : Statement .crcBuf := by constructor <;> decide
theorem crcChk : Statement .crcChk := by constructor <;> decide
theorem seqInit (m : Mode) : Statement (.seqInit m) := by cases m <;> constructor <;> decide
theorem seqNext : Statement .seqNext := by constructor <;> decide
theorem muxWr : Statement .muxWr := by constructor <;> decide
theorem muxRd : Statement .muxRd := by constructor <;> decide
theorem embed (m : Mode) : Statement (.embed m) := by cases m <;> constructor <;> decide
theorem extract (m : Mode) : Statement (.extract m) := by cases m <;> constructor <;> decide
theorem gateYes : Statement .gateYes := by constructor <;> decide
theorem gateNo : Statement .gateNo := by constructor <;> decide

end Sys2Proof.Laws.Row
end

