-- ==== Sys2Proof/Tests/Slice0.lean ====
section
/-! SUPPORT. The model's own tests: expected values from spec/95_test_vectors.md (the vector is named) and from the rules; and for
every statement with hypotheses a concrete state that meets all of them. -/

namespace Sys2Proof.Machine

-- many small kernel evaluations: one after the other, not one thread each
set_option Elab.async false

/-! ## Helpers -/

/-- The outcome is a next state with `p`. -/
def after (o : Host.Outcome State Fault Refusal) (p : State → Bool) : Bool :=
  match o with
  | .next t => p t
  | .fault _ => false
  | .refused _ => false

theorem next_of_after {o : Host.Outcome State Fault Refusal} {p : State → Bool} (h : after o p = true) :
    ∃ t, o = .next t ∧ p t = true := by
  cases o with
  | next t => exact ⟨t, rfl, h⟩
  | fault f => simp [after] at h
  | refused r => simp [after] at h

/-- The cover of part 2.6 and 2.7: `n` pixels `FF 00 A5 FF`. -/
def cover (n : Nat) : Memory := (List.range n).flatMap fun p => [(4 * p, 0xFF#8), (4 * p + 2, 0xA5#8), (4 * p + 3, 0xFF#8)]

/-- 6 by 5 cover, payload "hi", key "secret" (programs P1, P2, vectors V-E1, V-E2). -/
def hiImage : State :=
  { State.reset with width := 6#32, height := 5#32, plen := 2#32, seedHi := 0x2BB80D53#32, seedLo := 0x7B1DA3E3#32,
                     pix := cover 30, pbuf := [(0, 0x68#8), (1, 0x69#8)] }

/-- 3 by 2 cover (part 2.6). -/
def smallImage : State := { State.reset with width := 3#32, height := 2#32, pix := cover 6 }

/-- 6 by 4 all-zero cover, payload "A": the frame of 72 bits fills the image exactly (V-E6). -/
def oneImage : State := { State.reset with width := 6#32, height := 4#32, plen := 1#32, pbuf := [(0, 0x41#8)] }

/-- The addresses of the frame bits of "A" that are 1: bit `i` is at `4 * (i div 3) + i mod 3` (V-F5, part 2.8). -/
def onePix : Memory :=
  [41, 44, 52, 53, 54, 57, 61, 62, 64, 65, 68, 69, 73, 74, 78, 80, 81, 82, 85, 90, 93, 94].map fun a => (a, 0x01#8)

/-- The image that holds "A". -/
def oneFull : State := { oneImage with pix := onePix }

/-- An EXTRACT of the image that holds "A", suspended with the threshold 0 (rule R204): pixel 10 is `(4, 1)` with LSBs 0, 1, 0. -/
def gated : State :=
  { oneFull with gateThr := 0#32, run := .gatewait, smode := .seq, sw := 6#32, sh := 4#32, seqCnt := 11, seqX := 4#32,
                 seqY := 1#32, bitpos := 32, flen := 1#32, trip := { v := 2#3, p := 7#3 } }

theorem gated_inv : gated.Inv := by constructor <;> decide +kernel

/-- After an EXTRACT that gave "A". -/
def readable : State :=
  { oneFull with done := true, rvalid := true, crcok := true, smode := .seq, sw := 6#32, sh := 4#32, seqCnt := 24, bitpos := 72,
                 flen := 1#32, rbuf := [(0, 0x41#8)] }

theorem readable_inv : readable.Inv := by constructor <;> decide +kernel

/-! ## The checks refuse ill-formed terms -/

theorem test_wf_config_needs_a_pixel : Config.wf { Config.reference with maxPixels := 0 } = false := by decide
theorem test_wf_config_pbuf_below_2_32 : Config.wf { Config.reference with pbufSize := 4294967296 } = false := by decide
theorem test_wf_config_rbuf_below_2_32 : Config.wf { Config.reference with rbufSize := 4294967296 } = false := by decide
theorem test_wf_config_reference : Config.reference.wf = true := by decide

/-- V-D15 to V-D21. -/
theorem test_wf_illegal_words :
    [0x00000100#32, 0x00000002#32, 0x01000011#32, 0x00000211#32, 0x00000240#32, 0x00010040#32, 0xFFFFFFFF#32].map legalWord
      = [false, false, false, false, false, false, false] := by decide

theorem test_wf_memory_order : Memory.wf [(1, 1#8), (0, 1#8)] = false := by decide
theorem test_wf_memory_default_entry : Memory.wf [(1, 0#8)] = false := by decide

/-! ## Decoding: words written out from rules R91, R93 -/

theorem test_decode_nop : decode 0b00000000000000000000000000000000#32 = .ok .nop := by decide
theorem test_decode_clr : decode 0b00000000000000000000000000000001#32 = .ok .clr := by decide
theorem test_decode_crcInit : decode 0b00000000000000000000000000010000#32 = .ok .crcInit := by decide
theorem test_decode_crcByte : decode 0b00000000011010000000000000010001#32 = .ok (.crcByte 0x68#8) := by decide
theorem test_decode_crcBuf : decode 0b00000000000000000000000000010010#32 = .ok .crcBuf := by decide
theorem test_decode_crcChk : decode 0b00000000000000000000000000010011#32 = .ok .crcChk := by decide
theorem test_decode_seqInit_rng : decode 0b00000000000000000000000000100000#32 = .ok (.seqInit .rng) := by decide
theorem test_decode_seqInit_seq : decode 0b00000000000000000000000100100000#32 = .ok (.seqInit .seq) := by decide
theorem test_decode_seqNext : decode 0b00000000000000000000000000100001#32 = .ok .seqNext := by decide
theorem test_decode_muxWr : decode 0b00000000000000000000000000110000#32 = .ok .muxWr := by decide
theorem test_decode_muxRd : decode 0b00000000000000000000000000110001#32 = .ok .muxRd := by decide
theorem test_decode_embed_rng : decode 0b00000000000000000000000001000000#32 = .ok (.embed .rng) := by decide
theorem test_decode_embed_seq : decode 0b00000000000000000000000101000000#32 = .ok (.embed .seq) := by decide
theorem test_decode_extract_rng : decode 0b00000000000000000000000001000001#32 = .ok (.extract .rng) := by decide
theorem test_decode_extract_seq : decode 0b00000000000000000000000101000001#32 = .ok (.extract .seq) := by decide
theorem test_decode_gateYes : decode 0b00000000000000000000000001000010#32 = .ok .gateYes := by decide
theorem test_decode_gateNo : decode 0b00000000000000000000000001000011#32 = .ok .gateNo := by decide

/-- V-D16, V-D17, V-D18: rejected by name. -/
theorem test_decode_rejects :
    decode 0x00000002#32 = .error (.unlistedOpcode 0x02#8) ∧ decode 0x01000011#32 = .error (.mustBeZero 0x11#8) ∧
    decode 0x00000211#32 = .error (.mustBeZero 0x11#8) := by decide

theorem test_decodeTableWord : decodeTableWord 32 0x00FF0011 = some (.crcByte 0xFF#8) ∧ decodeTableWord 32 0x100 = none := by
  decide

/-! ## Bit streams, frame, CRC, seed, generator -/

/-- V-B4, V-B5. -/
theorem test_bits_and_batch :
    bitsOf [0x68#8] = [false, true, true, false, true, false, false, false] ∧
    batch [true, false, true, true] 3 = [[.bit true, .bit false, .bit true], [.bit true, .absent, .absent]] := by decide

/-- V-B12, V-B13: a field is read most significant bit first. -/
theorem test_bytesOf : bytesOf (List.replicate 30 false ++ [true, false]) = 2 ∧
    bytesOf (true :: List.replicate 31 false) = 0x80000000 := by decide

/-- V-F2n, V-F2j. -/
theorem test_crc32 : crc32 [0x31#8, 0x32#8, 0x33#8, 0x34#8, 0x35#8, 0x36#8, 0x37#8, 0x38#8, 0x39#8] = 0xCBF43926#32 ∧
    crc32 [0x68#8, 0x69#8] = 0xD8932AAC#32 := by decide +kernel

/-- V-F3. -/
theorem test_frame : frame [0x68#8, 0x69#8] = [0#8, 0#8, 0#8, 2#8, 0x68#8, 0x69#8, 0xD8#8, 0x93#8, 0x2A#8, 0xAC#8] ∧
    frameBit [0x68#8, 0x69#8] 30 = true ∧ frameBit [0x68#8, 0x69#8] 31 = false ∧ frameBit [0x68#8, 0x69#8] 33 = true := by
  decide +kernel

/-- V-K2, V-K4, V-K7 (the key is two UTF-8 bytes longer than its letters say). -/
theorem test_deriveSeed : deriveSeed (some "") = 0xE3B0C44298FC1C14#64 ∧ deriveSeed (some "wrong") = 0x8810AD581E59F2BC#64 ∧
    deriveSeed (some "pässword") = 0x3478267B5612791B#64 := by decide +kernel

/-- V-G1, V-G4. -/
theorem test_next64 : next64Value 0#64 = 0xE220A8397B1DCDAF#64 ∧
    next64Value 0x2BB80D537B1DA3E3#64 = 0x47213616F237FE7F#64 := by decide +kernel

/-- V-Q3: all six coordinates of the Random traversal of a 3 by 2 image with the key "secret". -/
theorem test_random_traversal :
    traversal .rng 6 { smallImage with seedHi := 0x2BB80D53#32, seedLo := 0x7B1DA3E3#32 }
      = some [(0, 0), (1, 1), (0, 1), (1, 0), (2, 0), (2, 1)] := by decide +kernel

/-- V-Q1. -/
theorem test_random_traversal_empty_key :
    traversal .rng 4 { State.reset with width := 2#32, height := 2#32 } = some [(1, 1), (0, 0), (1, 0), (0, 1)] := by
  decide +kernel

/-! ## One step of each command -/

/-- V-C1. -/
theorem test_nop_keeps_an_error : after (exec .nop { State.reset with err := true, errcode := 5#8 })
    (fun t => t == { State.reset with err := true, errcode := 5#8 }) = true := by decide +kernel

/-- V-X21, V-C3: CLR leaves GATEWAIT and keeps the configuration. -/
theorem test_clr_from_gatewait : after (exec .clr gated)
    (fun t => t.statusWord == 0#32 && t.run == .idle && t.flen == 0#32 && t.bitpos == 0 && t.seqCnt == 0 && t.sw == 0#32
      && t.width == 6#32 && t.pix == onePix) = true := by decide +kernel

/-- V-F7; V-X18 in GATEWAIT. -/
theorem test_crcInit : after (exec .crcInit { State.reset with crcAcc := 1#32 })
    (fun t => t.crcAcc == 0xFFFFFFFF#32 && t.crcVal == 0#32 && t.statusWord == 1#32) = true := by decide +kernel
theorem test_crcInit_in_gatewait : after (exec .crcInit gated)
    (fun t => t.statusWord == 0x62#32 && t.errcode == 5#8 && t.run == .idle && t.bitpos == 32) = true := by decide +kernel

/-- V-F8, V-F9. -/
theorem test_crcByte : after (exec (.crcByte 0x61#8) State.reset) (fun t => t.crcAcc == 0x174841BC#32) = true := by
  decide +kernel
theorem test_crcByte_continues : after (exec (.crcByte 0x62#8) { State.reset with crcAcc := 0x174841BC#32 })
    (fun t => t.crcAcc == 0x617CB792#32 && t.crcVal == 0x9E83486D#32) = true := by decide +kernel

/-- V-F13, V-F16. -/
theorem test_crcBuf : after (exec .crcBuf hiImage) (fun t => t.crcVal == 0xD8932AAC#32 && t.statusWord == 1#32) = true := by
  decide +kernel
theorem test_crcBuf_range : after (exec .crcBuf { State.reset with plen := 65537#32 })
    (fun t => t.statusWord == 2#32 && t.errcode == 7#8 && t.crcAcc == 0xFFFFFFFF#32) = true := by decide +kernel

/-- V-F11, V-F12. -/
theorem test_crcChk : after (exec .crcChk { State.reset with crcAcc := 0xCADBBE3D#32, crcExp := 0x352441C2#32 })
    (fun t => t.statusWord == 0x11#32) = true := by decide +kernel
theorem test_crcChk_mismatch :
    after (exec .crcChk { State.reset with crcAcc := 0xCADBBE3D#32, crcExp := 0x352441C3#32, crcok := true })
      (fun t => t.statusWord == 2#32 && t.errcode == 2#8 && t.crcAcc == 0xCADBBE3D#32) = true := by decide +kernel

/-- V-Q7, V-Q10. -/
theorem test_seqInit : after (exec (.seqInit .seq) { smallImage with seqX := 7#32, seqCnt := 3 })
    (fun t => t.statusWord == 0x21#32 && t.seqCnt == 0 && t.seqX == 7#32 && t.sw == 3#32 && t.sh == 2#32) = true := by
  decide +kernel
theorem test_seqInit_too_large : after (exec (.seqInit .seq) { State.reset with width := 1024#32, height := 1025#32 })
    (fun t => t.errcode == 6#8 && t.smode == .rng && t.sw == 0#32) = true := by decide +kernel

/-- V-Q7: the fourth request of a 3 by 2 image; V-Q2: the fourth request of the Random traversal takes twelve draws. -/
theorem test_seqNext_sequential :
    after (exec .seqNext { State.reset with sw := 3#32, sh := 2#32, smode := .seq, seqCnt := 3 })
      (fun t => t.seqX == 0#32 && t.seqY == 1#32 && t.seqCnt == 4 && t.statusWord == 0x21#32) = true := by decide +kernel
theorem test_seqNext_random :
    after (exec .seqNext { State.reset with sw := 2#32, sh := 2#32, seqCnt := 3, used := [(0, 0), (1, 1), (1, 0)],
                                            prngS := 16214339286355184737 })
      (fun t => t.seqX == 0#32 && t.seqY == 1#32 && t.seqCnt == 4 && t.used == [(0, 1), (0, 0), (1, 1), (1, 0)]) = true := by
  decide +kernel

/-- V-M1, V-M5. -/
theorem test_muxWr : after (exec .muxWr { smallImage with seqX := 1#32, seqY := 1#32, trip := tripOfWord 0x72#32 })
    (fun t => t.done && [16, 17, 18, 19].map t.pix.read == [0xFE#8, 0x01#8, 0xA4#8, 0xFF#8]) = true := by decide +kernel
theorem test_muxWr_all_absent : after (exec .muxWr { smallImage with seqX := 2#32, seqY := 1#32, trip := tripOfWord 0x07#32 })
    (fun t => t.done && t.pix == cover 6) = true := by decide +kernel

/-- V-M7, V-M9. -/
theorem test_muxRd : after (exec .muxRd smallImage) (fun t => t.done && tripWord t.trip == 0x75#32) = true := by
  decide +kernel
theorem test_muxRd_range : after (exec .muxRd { smallImage with seqY := 2#32 })
    (fun t => t.errcode == 8#8 && t.err && tripWord t.trip == 0#32) = true := by decide +kernel

/-- V-E1 with two rows of the image of P1; V-E2 with two pixels of the image of P2. -/
theorem test_embed_sequential : after (exec (.embed .seq) hiImage)
    (fun t => t.statusWord == 0xE1#32 && t.flen == 2#32 && t.seqCnt == 27 && t.bitpos == 80 && t.seqX == 2#32 && t.seqY == 4#32
      && tripWord t.trip == 0x30#32 && t.crcVal == 0xD8932AAC#32
      && [40, 41, 42, 104, 105, 106].map t.pix.read == [0xFF#8, 0x00#8, 0xA4#8, 0xFE#8, 0x00#8, 0xA5#8]) = true := by
  decide +kernel
theorem test_embed_random : after (exec (.embed .rng) hiImage)
    (fun t => t.statusWord == 0xC1#32 && t.seqCnt == 27 && t.bitpos == 80 && t.seqX == 0#32 && t.seqY == 3#32
      && tripWord t.trip == 0x30#32
      && [32, 33, 34, 35, 8, 9, 10].map t.pix.read == [0xFE#8, 0x01#8, 0xA5#8, 0xFF#8, 0xFF#8, 0x00#8, 0xA5#8]) = true := by
  decide +kernel

/-- V-E6 on an all-zero cover, then its EXTRACT. -/
theorem test_embed_fills_the_image : after (exec (.embed .seq) oneImage)
    (fun t => t.statusWord == 0xE1#32 && t.bitpos == 72 && t.seqCnt == 24 && tripWord t.trip == 0x76#32
      && t.crcVal == 0xD3D99E8B#32 && t.pix == onePix) = true := by decide +kernel
theorem test_extract_sequential : after (exec (.extract .seq) oneFull)
    (fun t => t.statusWord == 0xF9#32 && t.rlen == 1#32 && t.rbuf == [(0, 0x41#8)] && t.crcExp == 0xD3D99E8B#32
      && tripWord t.trip == 0x76#32) = true := by decide +kernel

/-- V-X9: 27 bits only. -/
theorem test_extract_runs_out : after (exec (.extract .seq) { State.reset with width := 3#32, height := 3#32 })
    (fun t => t.statusWord == 0x22#32 && t.errcode == 4#8 && t.flen == 0#32 && t.bitpos == 27 && t.seqCnt == 9 && t.seqX == 2#32
      && t.seqY == 2#32 && tripWord t.trip == 0x70#32) = true := by decide +kernel

/-- V-X13 on the image of "A" with the threshold 0: the state `gated`, but for `PRNG_S`, which `seq_init` loads. -/
theorem test_extract_suspends : after (exec (.extract .seq) { oneFull with gateThr := 0#32 })
    (fun t => t == { gated with prngS := 0xE3B0C44298FC1C14 } && t.statusWord == 0x64#32) = true := by decide +kernel

/-- V-X14. -/
theorem test_gateYes : after (exec .gateYes gated)
    (fun t => t.statusWord == 0xF9#32 && t.seqCnt == 24 && t.bitpos == 72 && t.rbuf == [(0, 0x41#8)]) = true := by
  decide +kernel
/-- V-X24. -/
theorem test_gateYes_idle : after (exec .gateYes State.reset) (fun t => t.err && t.errcode == 5#8) = true := by decide +kernel

/-- V-X15. -/
theorem test_gateNo : after (exec .gateNo gated)
    (fun t => t.statusWord == 0x62#32 && t.errcode == 3#8 && t.bitpos == 32 && t.flen == 1#32) = true := by decide +kernel

/-! ## The host port -/

/-- V-H5, V-M10, V-H10, V-H3, V-X22. -/
theorem test_port_ctrl : after (step { State.reset with inbox := [.csrWrite .word 0x0C 0xFFFFFFFE#32] })
    (fun t => t.gateEn == false && t.ctrlWord == 0#32 && t.answer == .performed) = true := by decide +kernel
theorem test_port_trip : after (step { State.reset with inbox := [.csrWrite .word 0x34 0xFFFFFFFF#32] })
    (fun t => readCsr t .trip == 0x77#32) = true := by decide +kernel
theorem test_port_last_pixel_byte : after (step { State.reset with inbox := [.pixWrite 4194303 0x12#8] })
    (fun t => t.pix.read 4194303 == 0x12#8) = true := by decide +kernel
theorem test_port_gatewait_write : after (step { gated with inbox := [.csrWrite .word 0x10 7#32] })
    (fun t => t == { gated with answer := .busError }) = true := by decide +kernel

/-- A word placed by `withFetchWord` is run by the next step: EMBED with `WIDTH = 0` (V-E11). -/
theorem test_withFetchWord : after (step (State.reset.withFetchWord 32 0x140)) (fun t => t.errcode == 6#8) = true := by
  decide +kernel

/-- Rule R98: the script line `payload`. -/
theorem test_script_payload : ScriptLine.expand (.payload [0x68#8, 0x69#8]) =
    [.pbufWrite 0 0x68#8, .pbufWrite 1 0x69#8, .csrWrite .word 0x18 2#32] := by decide

/-! ## Witnesses: a state that meets every hypothesis of a statement -/

/-- The coordinates of the Sequential traversal of a 6 by 4 image. -/
def raster (n : Nat) : List Coord := (List.range n).map fun k => (k % 6, k / 6)

/-- The hardware's largest image (rule R5): 1024 by 1024 fills PIX. -/
def largest : State := { State.reset with width := 1024#32, height := 1024#32 }

/-- A 1 by 1 image whose one coordinate is in `USED` although `SEQ_CNT` is 0: no run reaches it, every draw repeats. -/
def stuckState : State := { State.reset with sw := 1#32, sh := 1#32, used := [(0, 0)] }

theorem refRangeLoop_one (s : DWord) : refRangeLoop 0 1 1 s = some (0, next64State s) := by
  rw [show (1 : Nat) = 0 + 1 from rfl, refRangeLoop, if_pos (Nat.zero_le _), Nat.zero_add, Nat.mod_one]

theorem refRange_one (s : DWord) : refRange s 1 = some (0, next64State s) := by
  rw [refRange, Nat.mod_one, refRangeLoop_one]

/-- V-G8: `range` of 1 is 0. -/
theorem prngRange_one (st : Nat) : ∃ st1, prngRange .ref st 1 = some (0, st1) := by
  refine ⟨(next64State (BitVec.ofNat 64 st)).toNat, ?_⟩
  rw [prngRange]
  split <;> rename_i he <;> rw [refRange_one] at he
  · injection he with he
    injection he with h0 h1
    rw [← h0, ← h1]
  · injection he

theorem drawCoord_one (st : Nat) : ∃ st1, drawCoord .ref 1 1 st = some ((0, 0), st1) := by
  obtain ⟨s1, h1⟩ := prngRange_one st
  obtain ⟨s2, h2⟩ := prngRange_one s1
  exact ⟨s2, drawCoord_of h1 h2⟩

theorem drawAt_succ {g : Prng} {sw sh k st st1 : Nat} {xy : Coord} (h : drawCoord g sw sh st = some (xy, st1)) :
    drawAt g sw sh (k + 1) st = drawAt g sw sh k st1 := by
  simp only [drawAt, h]

theorem drawAt_one (k st : Nat) : ∃ st1, drawAt .ref 1 1 k st = some ((0, 0), st1) := by
  induction k generalizing st with
  | zero => exact drawCoord_one st
  | succ k ih =>
    obtain ⟨st1, h⟩ := drawCoord_one st
    rw [drawAt_succ h]
    exact ih st1

theorem redraw_one (fuel st : Nat) : redraw .ref 1 1 [(0, 0)] fuel st = none := by
  induction fuel generalizing st with
  | zero => rfl
  | succ fuel ih =>
    obtain ⟨st1, h⟩ := drawCoord_one st
    rw [redraw_used h (List.mem_singleton.2 rfl)]
    exact ih st1

theorem witness_DecodeOfEncodeIsTheCommand :
    Instr.wf (.crcByte 0xFF#8) = true ∧ Instr.wf (.crcByte 0#8) = true ∧ Instr.wf (.extract .seq) = true := by decide

theorem witness_EncodeOfDecodeIsTheWord :
    decode 0x00FF0011#32 = .ok (.crcByte 0xFF#8) ∧ decode 0x00000141#32 = .ok (.extract .seq) := by decide

theorem witness_DecoderFollowsTheOpcodeMap :
    decode 0x00FF0011#32 = .ok (.crcByte 0xFF#8) ∧ decode 0xFFFFFFFF#32 = .error (.unlistedOpcode 0xFF#8) := by decide

theorem witness_StepRunsTheDecodedCommand :
    ({ State.reset with inbox := [.csrWrite .word 0x00 0x00000140#32] } : State).inbox = .csrWrite .word 0x00 0x140#32 :: [] ∧
    decode 0x00000140#32 = .ok (.embed .seq) ∧ Instr.wf (.embed .seq) = true ∧ State.reset.inbox = [] := by decide

theorem witness_IllegalWordChangesOnlyTheErrorState :
    ({ gated with inbox := [.csrWrite .word 0x00 0x00000100#32] } : State).inbox = .csrWrite .word 0x00 0x100#32 :: [] ∧
    legalWord 0x00000100#32 = false := by decide

theorem witness_MisplacedCommandEntersIllegalCommand :
    (State.reset.run = .idle ∧ (Instr.gateYes = .gateYes ∨ Instr.gateYes = .gateNo)) ∧
    (gated.run = .gatewait ∧ Instr.crcInit ≠ .nop ∧ Instr.crcInit ≠ .clr ∧ Instr.crcInit ≠ .gateYes ∧
      Instr.crcInit ≠ .gateNo) := by decide

theorem witness_InvariantHoldsAfterReset :
    Config.reference.wf = true ∧ Memory.wf [(4194303, 1#8)] = true ∧ Memory.wf [(65535, 1#8)] = true ∧
    Memory.below (4 * Config.reference.maxPixels) [(4194303, 1#8)] = true ∧
    Memory.below Config.reference.pbufSize [(65535, 1#8)] = true ∧
    Memory.below Config.reference.rbufSize [(65535, 1#8)] = true := by decide

theorem inv_with_inbox {s : State} (h : s.Inv) (rest : List HostTxn) : State.Inv { s with inbox := rest } :=
  ⟨h.cfg_wf, h.pix_wf, h.pbuf_wf, h.rbuf_wf, h.pix_below, h.pbuf_below, h.rbuf_below, h.done_err, h.gate_flags, h.err_code,
   h.code_known, h.valid, h.gate_at, h.gate_cond, h.gate_latch, h.count, h.latch_fits, h.used_random, h.used_sequential,
   h.cursor⟩

theorem witness_EveryStepKeepsTheInvariant :
    State.Inv { gated with inbox := [.csrWrite .word 0x00 0x00000042#32] } ∧
    ∃ t, step { gated with inbox := [.csrWrite .word 0x00 0x00000042#32] } = .next t ∧ t.rvalid = true :=
  ⟨inv_with_inbox gated_inv _, next_of_after (p := fun t => t.rvalid) (by decide +kernel)⟩

theorem witness_CountersFitTheirRegisters : gated.Inv ∧ readable.Inv := ⟨gated_inv, readable_inv⟩

theorem witness_OnlyTheRandomTraversalStops : gated.Inv ∧ readable.Inv := ⟨gated_inv, readable_inv⟩

theorem witness_ExactlyOneOutcomeFlagAfterACommand :
    (∃ t, exec .gateYes gated = .next t ∧ t.done = true) ∧ (∃ t, exec .gateNo gated = .next t ∧ t.err = true) ∧
    (∃ t, exec (.extract .seq) { oneFull with gateThr := 0#32 } = .next t ∧ (t.run == .gatewait) = true) :=
  ⟨next_of_after (p := fun t => t.done) (by decide +kernel), next_of_after (p := fun t => t.err) (by decide +kernel),
   next_of_after (p := fun t => t.run == .gatewait) (by decide +kernel)⟩

theorem witness_CrcInitLoadsAllOnes : hiImage.run = .idle := rfl

theorem witness_CrcByteFoldsTheImmediate : hiImage.run = .idle := rfl

theorem witness_CrcBufFoldsThePayload :
    let s : State := { State.reset with plen := 65536#32 }
    let t : State := { State.reset with plen := 65537#32 }
    s.run = .idle ∧ s.plen.toNat ≤ s.cfg.pbufSize ∧ t.run = .idle ∧ t.cfg.pbufSize < t.plen.toNat := by decide

theorem witness_CrcChkComparesTheFinalisedCrc :
    State.reset.run = .idle ∧ State.reset.crcAcc ^^^ 0xFFFFFFFF#32 = State.reset.crcExp ∧
    hiImage.run = .idle ∧ ({ hiImage with crcExp := 1#32 } : State).crcAcc ^^^ 0xFFFFFFFF#32 ≠ 1#32 := by decide

theorem witness_CrcDetectsEverySingleBitChange : 1 < [0x68#8, 0x69#8].length ∧ 7 < 8 := by decide

theorem witness_FrameBitsAreTheBitsOfTheFrame :
    ([] : List Byte).length < 4294967296 ∧ 63 < 8 * (([] : List Byte).length + 8) ∧
    [0x68#8, 0x69#8].length < 4294967296 ∧ 79 < 8 * ([0x68#8, 0x69#8].length + 8) := by decide

theorem witness_BitStreamFunctionsAreInverse : 1 ≤ 1 ∧ 1 ≤ 3 := by decide

theorem witness_EmbedTripletsAreTheBatchOfTheFrame :
    [0x68#8, 0x69#8].length < 4294967296 ∧ 2 < 3 ∧ 26 < ceilDiv (8 * ([0x68#8, 0x69#8].length + 8)) 3 := by decide

theorem witness_RangeEndsAndStaysBelowItsBound : 1 ≤ 1 ∧ 1 < 4294967296 ∧ 1 ≤ 4294967295 ∧ 4294967295 < 4294967296 := by
  decide

theorem witness_HangOfTheReferenceGeneratorIsExact : redraw .ref 1 1 [(0, 0)] drawBound 0 = none := redraw_one _ _

theorem witness_SeqInitLatchesOrRaisesBadDimensions :
    (largest.run = .idle ∧ largest.DimsOk) ∧
    (State.reset.run = .idle ∧ ¬ State.reset.DimsOk) ∧
    ¬ ({ largest with height := 1025#32 } : State).DimsOk := by
  unfold State.DimsOk
  decide

theorem witness_SeqNextSequentialEmitsTheRasterCoordinate :
    let s : State := { State.reset with sw := 3#32, sh := 2#32, smode := .seq, seqCnt := 5 }
    s.run = .idle ∧ s.smode = .seq ∧ s.seqCnt < s.sw.toNat * s.sh.toNat := by decide

/-- The first clause with `k = 1` (the draws of V-Q2: `(1, 0)`, `(1, 1)`, `(0, 0)`, `(1, 1)`), the second with the state whose one
coordinate is used. -/
theorem witness_SeqNextRandomEmitsTheFirstFreshDraw :
    (let s : State := { State.reset with sw := 2#32, sh := 2#32, seqCnt := 1, used := [(1, 0)], prngS := 0x2BB80D537B1DA3E3 }
     (s.run = .idle ∧ s.smode = .rng ∧ s.seqCnt < s.sw.toNat * s.sh.toNat) ∧
     drawAt s.cfg.prng s.sw.toNat s.sh.toNat 1 s.prngS = some ((1, 1), 11859653721418339383) ∧ (1, 1) ∉ s.used ∧
     ∀ j, j < 1 → ∃ xy st1, drawAt s.cfg.prng s.sw.toNat s.sh.toNat j s.prngS = some (xy, st1) ∧ xy ∈ s.used) ∧
    (stuckState.run = .idle ∧ stuckState.smode = .rng ∧ stuckState.seqCnt < stuckState.sw.toNat * stuckState.sh.toNat ∧
     ∀ j, j < 18446744073709551616 → ∃ xy st1,
       drawAt stuckState.cfg.prng stuckState.sw.toNat stuckState.sh.toNat j stuckState.prngS = some (xy, st1) ∧
       xy ∈ stuckState.used) := by
  refine ⟨⟨by decide, by decide +kernel, by decide, ?_⟩, rfl, rfl, by decide, ?_⟩
  · intro j hj
    obtain rfl : j = 0 := by omega
    exact ⟨(1, 0), 7504968156481494029, by decide +kernel, by decide⟩
  · intro j _
    obtain ⟨st1, h⟩ := drawAt_one j stuckState.prngS
    exact ⟨(0, 0), st1, h, by decide⟩

theorem witness_SeqNextAtTheEndRaisesSeqExhausted :
    State.reset.run = .idle ∧ State.reset.sw.toNat * State.reset.sh.toNat ≤ State.reset.seqCnt := by decide

theorem witness_SequentialTraversalIsRasterOrder :
    6 ≤ smallImage.width.toNat * smallImage.height.toNat ∧ smallImage.width.toNat * smallImage.height.toNat < 7 := by decide

theorem witness_TraversalNeverRepeatsACoordinate :
    traversal .rng 4 { State.reset with width := 2#32, height := 2#32 } = some [(1, 1), (0, 0), (1, 0), (0, 1)] ∧
    traversal .seq 6 oneImage = some (raster 6) := by decide +kernel

theorem witness_TraversalDependsOnlyOnSeedSizeAndMode :
    let s := oneImage
    let t := gated
    s.cfg.prng = t.cfg.prng ∧ s.seedHi = t.seedHi ∧ s.seedLo = t.seedLo ∧ s.width = t.width ∧ s.height = t.height := by decide

theorem witness_SeedIsIrrelevantInSequentialMode :
    (∃ t, exec (.seqInit .seq) oneImage = .next t ∧ t.done = true) ∧
    (∃ t, exec (.embed .seq) oneImage = .next t ∧ t.done = true) ∧
    (∃ t, exec (.extract .seq) oneFull = .next t ∧ t.done = true) :=
  ⟨next_of_after (p := fun t => t.done) (by decide +kernel), next_of_after (p := fun t => t.done) (by decide +kernel),
   next_of_after (p := fun t => t.done) (by decide +kernel)⟩

theorem witness_MuxWrWritesThePresentSlots :
    (let s : State := { smallImage with seqX := 2#32, seqY := 1#32, trip := tripOfWord 0x72#32 }
     s.run = .idle ∧ s.XyOk ∧ s.pix.wf = true ∧ 2 < 3 ∧ s.trip.p.getLsbD 2 = true) ∧
    (let s : State := { smallImage with seqX := 3#32 }
     s.run = .idle ∧ ¬ s.XyOk) := by
  unfold State.XyOk
  decide +kernel

theorem witness_MuxRdReadsTheThreeLsbs :
    (let s : State := { smallImage with seqX := 2#32, seqY := 1#32 }
     s.run = .idle ∧ s.XyOk) ∧
    (let s : State := { smallImage with seqY := 2#32 }
     s.run = .idle ∧ ¬ s.XyOk) := by
  unfold State.XyOk
  decide +kernel

theorem witness_CommandsChangeOnlyColourLsbs : smallImage.pix.wf = true ∧
    ∃ t, exec .muxWr { smallImage with trip := tripOfWord 0x70#32 } = .next t ∧ (t.pix.read 0 == 0xFE#8) = true :=
  ⟨by decide +kernel, next_of_after (p := fun t => t.pix.read 0 == 0xFE#8) (by decide +kernel)⟩

/-- Sequential mode with the frame at the capacity, and Random mode. -/
theorem witness_EmbedCompletesWithTheFrameInPix :
    (oneImage.run = .idle ∧ oneImage.DimsOk ∧ oneImage.pix.wf = true ∧ oneImage.plen.toNat ≤ oneImage.cfg.pbufSize ∧
      8 * (oneImage.plen.toNat + 8) ≤ 3 * oneImage.width.toNat * oneImage.height.toNat ∧
      traversal .seq (ceilDiv (8 * (oneImage.plen.toNat + 8)) 3) oneImage = some (raster 24)) ∧
    (hiImage.run = .idle ∧ hiImage.DimsOk ∧ hiImage.pix.wf = true ∧ hiImage.plen.toNat ≤ hiImage.cfg.pbufSize ∧
      8 * (hiImage.plen.toNat + 8) ≤ 3 * hiImage.width.toNat * hiImage.height.toNat ∧
      traversal .rng (ceilDiv (8 * (hiImage.plen.toNat + 8)) 3) hiImage
        = some ((traversal .rng 27 hiImage).getD []) ∧
      ((traversal .rng 27 hiImage).getD []).getLast? = some (0, 3)) := by
  unfold State.DimsOk
  decide +kernel

/-- The capacity exactly, and a 23 by 1 image that is too small (V-E7). -/
theorem witness_SequentialEmbedCompletesExactlyWithinCapacity :
    (oneImage.run = .idle ∧ oneImage.DimsOk ∧ oneImage.plen.toNat ≤ oneImage.cfg.pbufSize) ∧
    (let s : State := { oneImage with width := 23#32, height := 1#32 }
     s.run = .idle ∧ s.DimsOk ∧ s.plen.toNat ≤ s.cfg.pbufSize ∧ 3 * s.width.toNat * s.height.toNat < 8 * (s.plen.toNat + 8)) := by
  unfold State.DimsOk
  decide

theorem witness_EmbedErrorsLeavePixAndSequencerAlone :
    (State.reset.run = .idle ∧ ¬ State.reset.DimsOk) ∧
    (let s : State := { hiImage with plen := 65537#32 }
     s.run = .idle ∧ s.DimsOk ∧ s.cfg.pbufSize < s.plen.toNat) ∧
    (let s : State := { hiImage with height := 4#32 }
     s.run = .idle ∧ s.DimsOk ∧ s.plen.toNat ≤ s.cfg.pbufSize ∧
       3 * s.width.toNat * s.height.toNat < 8 * (s.plen.toNat + 8)) := by
  unfold State.DimsOk
  decide

theorem witness_EmbedTwiceLeavesPixAsAfterTheFirst :
    hiImage.pix.wf = true ∧ ∃ t, exec (.embed .rng) hiImage = .next t ∧ t.done = true :=
  ⟨by decide +kernel, next_of_after (p := fun t => t.done) (by decide +kernel)⟩

/-- Frame bit 34 (at byte 45 of PIX), a 0 of the payload byte 0x41, set: the trailer no longer matches (as in V-X3). -/
def corrupt : State := { oneFull with pix := onePix.write 45 0x01#8, gateEn := false }

/-- The trailer matches, with the threshold equal to the length; and it does not, with the gate off. -/
theorem witness_ExtractCompletesWithTheVerifiedPayload :
    (let s : State := { oneFull with gateThr := 1#32 }
     s.run = .idle ∧ s.DimsOk ∧ s.rbuf.wf = true ∧ traversal .seq (ceilDiv (8 * (1 + 8)) 3) s = some (raster 24) ∧
     streamLength (s.sourceBits (raster 24)) = 1 ∧ (s.gateEn = false ∨ 1 ≤ s.gateThr.toNat) ∧ 1 ≤ s.cfg.rbufSize ∧
     streamTrailer ((s.sourceBits (raster 24)).drop 32) 1
       = crc32 (streamBytes ((s.sourceBits (raster 24)).drop 32) 1)) ∧
    (corrupt.run = .idle ∧ corrupt.DimsOk ∧ corrupt.rbuf.wf = true ∧
     traversal .seq (ceilDiv (8 * (1 + 8)) 3) corrupt = some (raster 24) ∧
     streamLength (corrupt.sourceBits (raster 24)) = 1 ∧ (corrupt.gateEn = false ∨ 1 ≤ corrupt.gateThr.toNat) ∧
     1 ≤ corrupt.cfg.rbufSize ∧
     streamTrailer ((corrupt.sourceBits (raster 24)).drop 32) 1
       ≠ crc32 (streamBytes ((corrupt.sourceBits (raster 24)).drop 32) 1)) := by
  unfold State.DimsOk
  decide +kernel

theorem witness_ExtractSuspendsAboveTheThreshold :
    let s : State := { oneFull with gateThr := 0#32 }
    s.run = .idle ∧ s.DimsOk ∧ traversal .seq 11 s = some (raster 11) ∧ s.gateEn = true ∧
    s.gateThr.toNat < streamLength (s.sourceBits (raster 11)) ∧ (raster 11)[10]? = some (4, 1) := by
  unfold State.DimsOk
  decide +kernel

theorem witness_ExtractWithBadDimensionsStopsBeforeTheTraversal :
    State.reset.run = .idle ∧ ¬ State.reset.DimsOk := by
  unfold State.DimsOk
  decide

/-- A suspended EXTRACT of a length 2 that the image of 72 bits cannot hold. -/
def gatedTwo : State := { gated with flen := 2#32 }

theorem gatedTwo_inv : gatedTwo.Inv := by constructor <;> decide +kernel

/-- The length field: V-X9 (3 by 3) in Sequential mode, a 5 by 2 image in Random mode; the trailer: 12 pixels of zeros as in
V-X10, in both modes, and 11, the fewest that hold a length; GATE_YES. -/
theorem witness_ExtractRunsOutOfPixelsBeyondCapacity :
    (let s : State := { State.reset with width := 3#32, height := 3#32 }
     s.run = .idle ∧ s.DimsOk ∧ s.width.toNat * s.height.toNat < 11 ∧
     traversal .seq (s.width.toNat * s.height.toNat) s = some ((List.range 9).map fun k => (k % 3, k / 3))) ∧
    (let s : State := { State.reset with width := 5#32, height := 2#32 }
     s.run = .idle ∧ s.DimsOk ∧ s.width.toNat * s.height.toNat < 11 ∧
     traversal .rng (s.width.toNat * s.height.toNat) s = some ((traversal .rng 10 s).getD [])) ∧
    (let s : State := { State.reset with width := 6#32, height := 2#32 }
     s.run = .idle ∧ s.DimsOk ∧ 11 ≤ s.width.toNat * s.height.toNat ∧
     traversal .seq (s.width.toNat * s.height.toNat) s = some (raster 12) ∧ streamLength (s.sourceBits (raster 12)) = 0 ∧
     traversal .rng (s.width.toNat * s.height.toNat) s = some ((traversal .rng 12 s).getD []) ∧
     streamLength (s.sourceBits ((traversal .rng 12 s).getD [])) = 0 ∧
     (s.gateEn = false ∨ 0 ≤ s.gateThr.toNat) ∧ 0 ≤ s.cfg.rbufSize ∧
     3 * (s.width.toNat * s.height.toNat) < 8 * (0 + 8)) ∧
    (let s : State := { State.reset with width := 11#32, height := 1#32 }
     s.run = .idle ∧ s.DimsOk ∧ 11 ≤ s.width.toNat * s.height.toNat ∧
     traversal .seq (s.width.toNat * s.height.toNat) s = some ((List.range 11).map fun k => (k, 0)) ∧
     streamLength (s.sourceBits ((List.range 11).map fun k => (k, 0))) = 0 ∧
     (s.gateEn = false ∨ 0 ≤ s.gateThr.toNat) ∧ 0 ≤ s.cfg.rbufSize ∧
     3 * (s.width.toNat * s.height.toNat) < 8 * (0 + 8)) ∧
    (gatedTwo.Inv ∧ gatedTwo.run = .gatewait ∧ gatedTwo.flen.toNat ≤ gatedTwo.cfg.rbufSize ∧
     coordsFrom (gatedTwo.width.toNat * gatedTwo.height.toNat - 11) gatedTwo = some ((raster 24).drop 11) ∧
     3 * (gatedTwo.width.toNat * gatedTwo.height.toNat) < 8 * (gatedTwo.flen.toNat + 8)) := by
  refine ⟨?_, ?_, ?_, ?_, gatedTwo_inv, rfl, by decide, by decide +kernel, by decide⟩ <;>
    (unfold State.DimsOk; decide +kernel)

theorem oneFull_inv : oneFull.Inv := by constructor <;> decide +kernel

theorem witness_ReadablePayloadIsVerified :
    (oneFull.Inv ∧ oneFull.run = .idle ∧ ∃ t, exec (.extract .seq) oneFull = .next t ∧ t.rvalid = true) ∧
    (gated.Inv ∧ gated.run = .gatewait ∧ ∃ t, exec .gateYes gated = .next t ∧ t.rvalid = true) :=
  ⟨⟨oneFull_inv, rfl, next_of_after (p := fun t => t.rvalid) (by decide +kernel)⟩,
   ⟨gated_inv, rfl, next_of_after (p := fun t => t.rvalid) (by decide +kernel)⟩⟩

/-- The suspended EXTRACT of `corrupt`. -/
def gatedCorrupt : State := { gated with pix := onePix.write 45 0x01#8 }

theorem gatedCorrupt_inv : gatedCorrupt.Inv := by constructor <;> decide +kernel

/-- The trailer matches, and it does not. -/
theorem witness_GateYesCompletesTheSuspendedExtract :
    (gated.Inv ∧ gated.run = .gatewait ∧ gated.flen.toNat ≤ gated.cfg.rbufSize ∧
     coordsFrom (ceilDiv (8 * (gated.flen.toNat + 8)) 3 - 11) gated = some ((raster 24).drop 11) ∧
     streamTrailer (gated.trip.v.getLsbD 2 :: gated.sourceBits ((raster 24).drop 11)) gated.flen.toNat
       = crc32 (streamBytes (gated.trip.v.getLsbD 2 :: gated.sourceBits ((raster 24).drop 11)) gated.flen.toNat)) ∧
    (gatedCorrupt.Inv ∧ gatedCorrupt.run = .gatewait ∧ gatedCorrupt.flen.toNat ≤ gatedCorrupt.cfg.rbufSize ∧
     coordsFrom (ceilDiv (8 * (gatedCorrupt.flen.toNat + 8)) 3 - 11) gatedCorrupt = some ((raster 24).drop 11) ∧
     streamTrailer (gatedCorrupt.trip.v.getLsbD 2 :: gatedCorrupt.sourceBits ((raster 24).drop 11)) gatedCorrupt.flen.toNat
       ≠ crc32 (streamBytes (gatedCorrupt.trip.v.getLsbD 2 :: gatedCorrupt.sourceBits ((raster 24).drop 11))
           gatedCorrupt.flen.toNat)) :=
  ⟨⟨gated_inv, rfl, by decide, by decide +kernel, by decide +kernel⟩,
   ⟨gatedCorrupt_inv, rfl, by decide, by decide +kernel, by decide +kernel⟩⟩

theorem witness_GateYesGivesTheUngatedResult :
    ∃ u, exec (.extract .seq) { oneFull with gateThr := 0#32 } = .next u ∧ u.run = .gatewait := by
  obtain ⟨u, h, hu⟩ := next_of_after (o := exec (.extract .seq) { oneFull with gateThr := 0#32 })
    (p := fun t => decide (t.run = .gatewait)) (by decide +kernel)
  exact ⟨u, h, of_decide_eq_true hu⟩

/-- GATE_YES; an EXTRACT with the gate off, and one with a threshold that is not exceeded, of the length 2^21 (length bit 10,
at byte 13 of PIX). -/
theorem witness_GateYesAboveTheBufferRaisesBufferRange :
    (let s : State := { gated with flen := 65537#32 }
     s.run = .gatewait ∧ s.cfg.rbufSize < s.flen.toNat) ∧
    (let s : State := { State.reset with width := 6#32, height := 2#32, pix := [(13, 0x01#8)], gateEn := false }
     s.run = .idle ∧ s.DimsOk ∧ traversal .seq 11 s = some (raster 11) ∧
     (s.gateEn = false ∨ streamLength (s.sourceBits (raster 11)) ≤ s.gateThr.toNat) ∧
     s.cfg.rbufSize < streamLength (s.sourceBits (raster 11))) ∧
    (let s : State := { State.reset with width := 6#32, height := 2#32, pix := [(13, 0x01#8)], gateThr := 2097152#32 }
     s.run = .idle ∧ s.DimsOk ∧ traversal .seq 11 s = some (raster 11) ∧
     (s.gateEn = false ∨ streamLength (s.sourceBits (raster 11)) ≤ s.gateThr.toNat) ∧
     s.cfg.rbufSize < streamLength (s.sourceBits (raster 11))) := by
  unfold State.DimsOk
  decide +kernel

theorem witness_GateNoAbortsTheExtract : gated.run = .gatewait ∧ gated.Inv ∧ State.reset.run = .idle :=
  ⟨rfl, gated_inv, rfl⟩

/-- The hypotheses on the state before the EMBED, and those on a state `u` after it. -/
theorem witness_ExtractRecoversWhatEmbedWrote :
    (hiImage.run = .idle ∧ hiImage.DimsOk ∧ hiImage.pix.wf = true ∧ hiImage.plen.toNat ≤ hiImage.cfg.pbufSize ∧
      hiImage.plen.toNat ≤ hiImage.cfg.rbufSize ∧
      8 * (hiImage.plen.toNat + 8) ≤ 3 * hiImage.width.toNat * hiImage.height.toNat) ∧
    ∃ t, exec (.embed .rng) hiImage = .next t ∧ t.done = true ∧ t.run = .idle ∧ t.rbuf.wf = true := by
  constructor
  · unfold State.DimsOk
    decide +kernel
  · obtain ⟨t, h, ht⟩ := next_of_after (o := exec (.embed .rng) hiImage)
      (p := fun t => decide (t.done = true ∧ t.run = .idle ∧ t.rbuf.wf = true)) (by decide +kernel)
    exact ⟨t, h, of_decide_eq_true ht⟩

/-- Another image with the same LSBs: byte 0 is FE in place of 00, and an alpha byte differs in bit 0. -/
theorem witness_ExtractReadsOnlyColourLsbs :
    (∀ x y k, x < (11#32).toNat → y < (2#32).toNat → k < 3 →
      (Memory.read [(0, 0xFE#8), (3, 0xFF#8)] (4 * (y * (11#32).toNat + x) + k)).getLsbD 0 =
        (State.reset.pix.read (4 * (y * (11#32).toNat + x) + k)).getLsbD 0) ∧
    ∃ t, exec (.extract .seq) { State.reset with width := 11#32, height := 2#32 } = .next t ∧ t.done = true := by
  refine ⟨?_, next_of_after (p := fun t => t.done) (by decide +kernel)⟩
  intro x y k _ _ hk
  have h3 : ¬ 4 * (y * (11#32).toNat + x) + k = 3 := by omega
  simp only [Memory.read, if_neg h3]
  split
  · change (0xFE#8).getLsbD 0 = (0x00#8).getLsbD 0
    decide
  · rfl

theorem witness_CommandsWriteOnlyTheirRegisters :
    (∃ t, exec .clr readable = .next t ∧ (t.rvalid == false) = true) ∧
    (∃ t, exec (.embed .seq) oneImage = .next t ∧ t.done = true) ∧
    (∃ t, exec .seqNext { smallImage with sw := 3#32, sh := 2#32, smode := .seq } = .next t ∧ t.done = true) ∧
    (∃ t, exec (.extract .seq) corrupt = .next t ∧ (t.err && t.errcode == 2#8 && decide (t.flen.toNat ≤ 1)) = true) :=
  ⟨next_of_after (p := fun t => t.rvalid == false) (by decide +kernel), next_of_after (p := fun t => t.done) (by decide +kernel),
   next_of_after (p := fun t => t.done) (by decide +kernel),
   next_of_after (p := fun t => t.err && t.errcode == 2#8 && decide (t.flen.toNat ≤ 1)) (by decide +kernel)⟩

/-- A listed refusal and its neighbour that is not listed, at the edges of each range. -/
theorem witness_RefusedTransactionsAreExactlyTheListed :
    ¬ RefusalListed (.csrRead .word 0x00) State.reset ∧ RefusalListed (.csrRead .word 0x58) State.reset ∧ ¬ RefusalListed (.csrRead .word 0x54) State.reset ∧
    RefusalListed (.csrRead .word 0x06) State.reset ∧ RefusalListed (.csrRead .half 0x04) State.reset ∧
    RefusalListed (.csrWrite .word 0x38 0#32) State.reset ∧ ¬ RefusalListed (.csrWrite .word 0x34 0#32) State.reset ∧
    RefusalListed (.csrWrite .word 0x10 0#32) gated ∧ ¬ RefusalListed (.csrWrite .word 0x00 0#32) gated ∧
    RefusalListed (.pixRead 4194304) State.reset ∧ ¬ RefusalListed (.pixRead 4194303) gated ∧
    RefusalListed (.pixWrite 0 0#8) gated ∧ ¬ RefusalListed (.pixWrite 4194303 0#8) State.reset ∧
    RefusalListed (.pbufRead 65536) State.reset ∧ ¬ RefusalListed (.pbufRead 65535) gated ∧
    RefusalListed (.pbufWrite 0 0#8) gated ∧ ¬ RefusalListed (.pbufWrite 65535 0#8) State.reset ∧
    RefusalListed (.rbufRead 0) gated ∧ RefusalListed (.rbufRead 1) readable ∧ ¬ RefusalListed (.rbufRead 0) readable ∧
    RefusalListed (.rbufWrite 0 0#8) State.reset := by
  simp [RefusalListed, State.reset, State.launch, Config.reference, gated, readable, oneFull, oneImage]

theorem witness_CsrReadAnswersTheRegister :
    ({ gated with inbox := [.csrRead .word 0x54] } : State).inbox = .csrRead .word Csr.bitposHi.offset :: [] := rfl

theorem witness_CsrWriteIsReadBackAndTouchesNothingElse :
    State.reset.run = .idle ∧
    ({ State.reset with inbox := [.csrWrite .word 0x34 0xFFFFFFFF#32] } : State).inbox
      = .csrWrite .word Csr.trip.offset 0xFFFFFFFF#32 :: [] ∧
    Csr.trip ∈ [Csr.ctrl, .width, .height, .plen, .gateThr, .seedLo, .seedHi, .crcExp, .seqX, .seqY, .trip] := by decide

theorem witness_RbufIsReadableOnlyBelowRlen :
    (State.Inv { readable with inbox := [.rbufRead 0] } ∧
      0 < (readCsr { readable with inbox := [.rbufRead 0] } .rlen).toNat) ∧
    (State.Inv { readable with inbox := [.rbufRead 1] } ∧
      (readCsr { readable with inbox := [.rbufRead 1] } .rlen).toNat ≤ 1) :=
  ⟨⟨inv_with_inbox readable_inv _, by decide⟩, ⟨inv_with_inbox readable_inv _, by decide⟩⟩

theorem witness_HostReadGivesTheLatestWrite :
    State.reset.run = .idle ∧ State.reset.pix.wf = true ∧ 4194303 < 4 * State.reset.cfg.maxPixels ∧
    State.reset.pbuf.wf = true ∧ 65535 < State.reset.cfg.pbufSize := by decide

end Sys2Proof.Machine
end

section
/-! SUPPORT. The rule for results that tells a completed, a raised and a suspended piece apart, and what the body of each unit
command can leave, said once for any property of states. -/

namespace Sys2Proof.Machine

/-! ## Results, case by case -/

section
variable {α β : Type}

/-- Where the piece goes on it gives a value and a state with `ok`, where it raises a state with `err`, where it suspends a state
with `sus`. `Res.All` is the case where the three are one. -/
def Res.Sat (r : Res α) (ok : α → State → Prop) (err sus : State → Prop) : Prop :=
  match r with
  | .ok a s => ok a s
  | .raised _ s => err s
  | .suspended s => sus s
  | .stuck _ => True

variable {ok ok' : α → State → Prop} {err err' sus sus' : State → Prop}

@[simp] theorem sat_ok (a : α) (s : State) : (Res.ok a s).Sat ok err sus ↔ ok a s := Iff.rfl
@[simp] theorem sat_raised (e : CmdError) (s : State) : (Res.raised e s : Res α).Sat ok err sus ↔ err s := Iff.rfl
@[simp] theorem sat_suspended (s : State) : (Res.suspended s : Res α).Sat ok err sus ↔ sus s := Iff.rfl
@[simp] theorem sat_stuck (x : Fault) : (Res.stuck x : Res α).Sat ok err sus := trivial

theorem Res.Sat.mono {r : Res α} (h : r.Sat ok err sus) (hok : ∀ a s, ok a s → ok' a s) (herr : ∀ s, err s → err' s)
    (hsus : ∀ s, sus s → sus' s) : r.Sat ok' err' sus' := by
  cases r with
  | ok a s => exact hok a s h
  | raised e s => exact herr s h
  | suspended s => exact hsus s h
  | stuck x => trivial

/-- The rule for a sequence: the second part starts from what the first part's completion has. -/
theorem Res.Sat.andThen {q : β → State → Prop} {r : Res α} {f : α → State → Res β} (h : r.Sat ok err sus)
    (hf : ∀ a s, ok a s → (f a s).Sat q err sus) : (r.andThen f).Sat q err sus := by
  cases r with
  | ok a s => exact hf a s h
  | raised e s => exact h
  | suspended s => exact h
  | stuck x => trivial

/-- The piece goes on or raises in a state with `p`, and does not suspend. -/
abbrev Res.Ends (r : Res α) (p : State → Prop) : Prop := r.Sat (fun _ => p) p fun _ => False

theorem Res.Ends.mono {p q : State → Prop} {r : Res α} (h : r.Ends p) (hpq : ∀ s, p s → q s) : r.Ends q :=
  Res.Sat.mono h (fun _ => hpq) hpq fun _ h => h

theorem Res.Ends.and_all {p q : State → Prop} {r : Res α} (h : r.Ends p) (ha : r.All q) : r.Ends fun s => p s ∧ q s := by
  cases r with
  | stuck x => trivial
  | suspended s => exact h
  | _ => exact ⟨h, ha⟩

/-- Whatever is asked of a suspension. -/
theorem Res.Ends.sat {p : State → Prop} {r : Res α} (h : r.Ends p) : r.Sat (fun _ => p) p sus :=
  Res.Sat.mono h (fun _ _ h => h) (fun _ h => h) fun _ h => h.elim

theorem Res.Ends.all {p : State → Prop} {r : Res α} (h : r.Ends p) : r.All p := by
  cases r with
  | suspended s => exact absurd h id
  | _ => exact h

theorem Res.All.sat {p : State → Prop} {r : Res α} (h : r.All p) : r.Sat (fun _ => p) p p := by
  cases r <;> exact h

theorem Res.Sat.all {p : State → Prop} {r : Res α} (h : r.Sat (fun _ => p) p p) : r.All p := by
  cases r <;> exact h

theorem Res.All.and {p q : State → Prop} {r : Res α} (hp : r.All p) (hq : r.All q) : r.All fun s => p s ∧ q s := by
  cases r with
  | stuck x => trivial
  | _ => exact ⟨hp, hq⟩

theorem Res.Sat.with_all {p : State → Prop} {r : Res α} (h : r.Sat ok err sus) (ha : r.All p) :
    r.Sat (fun a t => ok a t ∧ p t) (fun t => err t ∧ p t) (fun t => sus t ∧ p t) := by
  cases r with
  | stuck x => trivial
  | _ => exact ⟨h, ha⟩

end

/-- What a command leaves, from what its body gives: refused by `RUN` it enters `IllegalCommand`, else its body ends (rules R95,
R96, R227). -/
theorem runCommand_sat {i : Instr} {body : State → Res Unit} {s t : State} {q err sus : State → Prop}
    {ok : Unit → State → Prop} (h : runCommand i body s = .next t)
    (hill : accepted i s.run = false → q (raiseError .illegalCommand s))
    (hbody : accepted i s.run = true → (body (prologue s)).Sat ok err sus)
    (hok : ∀ u, ok () u → q { u with done := true }) (herr : ∀ e u, err u → q (raiseError e u)) (hsus : ∀ u, sus u → q u) :
    q t := by
  cases ha : accepted i s.run with
  | false =>
    rw [runCommand_of_not ha] at h
    cases h
    exact hill ha
  | true =>
    have hb := hbody ha
    rw [runCommand_of_accepted ha] at h
    rcases finish_eq_next.1 h with ⟨u, hu, rfl⟩ | ⟨e, u, hu, rfl⟩ | hu <;> rw [hu] at hb
    · exact hok u hb
    · exact herr e u hb
    · exact hsus t hb

/-! ## The bodies of the commands -/

/-- The pseudocode of a command other than NOP and CLR, which the common prologue and epilogue surround (rules R96, R227). NOP and
CLR have neither: for them it stands for nothing. -/
def commandBody : Instr → State → Res Unit
  | .nop, s => .ok () s
  | .clr, s => .ok () s
  | .crcInit, s => .ok () { s with crcAcc := 0xFFFFFFFF#32 }
  | .crcByte imm8, s => .ok () { s with crcAcc := crcUpdate s.crcAcc imm8 }
  | .crcBuf, s => crcBufBody s
  | .crcChk, s => crcChkBody s
  | .seqInit m, s => seqInitBody m s
  | .seqNext, s => seqNextBody s
  | .muxWr, s => muxWrBody s
  | .muxRd, s => muxRdBody s
  | .embed m, s => embedBody m s
  | .extract m, s => extractBody m s
  | .gateYes, s => extractTail { s with run := .idle }
  | .gateNo, s => .raised .userAborted { s with run := .idle }

/-- Every command but NOP and CLR is its body between the prologue and the epilogue. -/
theorem exec_eq_runCommand {i : Instr} (hn : i ≠ .nop) (hc : i ≠ .clr) (s : State) :
    exec i s = runCommand i (commandBody i) s := by
  cases i with
  | nop => exact absurd rfl hn
  | clr => exact absurd rfl hc
  | _ => rfl

/-! ## What the bodies of the unit commands can leave -/

section
variable {p : State → Prop} {s : State}

/-- Folding a payload that fits PBUF (the loop of rules R129 and R190 step 2). -/
theorem foldPbuf_of_le {n : Nat} (h : n ≤ s.cfg.pbufSize) :
    foldPbuf n s = .ok (s.payload n) { s with crcAcc := crcFold s.crcAcc (s.payload n) } := by
  rw [foldPbuf, memReadRange_of_le (by simpa using h), andThen_ok]
  simp only [Nat.zero_add]
  rfl

theorem crcBufBody_ends (h : ∀ a, p { s with crcAcc := a }) : (crcBufBody s).Ends p := by
  unfold crcBufBody
  split
  · exact h s.crcAcc
  · rw [foldPbuf_of_le (by omega)]
    exact h _

theorem crcChkBody_ends (h : ∀ b, p { s with crcok := b }) : (crcChkBody s).Ends p := by
  unfold crcChkBody
  split <;> exact h _

theorem seqInitBody_ends {m : Mode} (h0 : p s) (h : s.DimsOk → p (seqInit m s)) : (seqInitBody m s).Ends p := by
  unfold seqInitBody
  rcases checkDims_cases s with ⟨hd, hc⟩ | ⟨-, hc⟩ <;> rw [hc]
  · exact h hd
  · exact h0

theorem seqNextBody_ends (h0 : p s) (h : ∀ xy t, Emitted xy s t → p t) : (seqNextBody s).Ends p := by
  unfold seqNextBody
  rcases seqNext_cases s with ⟨xy, t, hn, he⟩ | ⟨-, hn⟩ | ⟨-, -, hn⟩ <;> rw [hn]
  · exact h xy t he
  · exact h0
  · trivial

theorem muxRdBody_ends (h : ∀ t : Trip, p { s with trip := t }) : (muxRdBody s).Ends p := by
  unfold muxRdBody
  rcases checkXy_cases s with ⟨⟨hm, hx, hy⟩, hc⟩ | ⟨-, hc⟩ <;> rw [hc]
  · rw [andThen_ok, muxRd_ok hm hx hy]
    exact h _
  · exact h s.trip

theorem muxWrBody_ends (h0 : p s) (h : s.XyOk → p { s with pix := muxPix s s.seqX.toNat s.seqY.toNat }) :
    (muxWrBody s).Ends p := by
  unfold muxWrBody
  rcases checkXy_cases s with ⟨hxy, hc⟩ | ⟨-, hc⟩ <;> rw [hc]
  · have ⟨hm, hx, hy⟩ := hxy
    rw [andThen_ok, muxWr_ok hm hx hy]
    exact h hxy
  · exact h0

end

end Sys2Proof.Machine
end

section
/-! SUPPORT. The invariant in the pieces that a command's body keeps: the memories, the traversal, and the state in the middle of
a command. -/

namespace Sys2Proof.Machine

/-! ## The pieces of the invariant -/

/-- The configuration is within its bounds, and the memories are canonical and within their sizes. -/
structure MemOk (c : Config) (pix pbuf rbuf : Memory) : Prop where
  cfg_wf : c.wf = true
  pix_wf : pix.wf = true
  pbuf_wf : pbuf.wf = true
  rbuf_wf : rbuf.wf = true
  pix_below : pix.below (spaceSize c .pix) = true
  pbuf_below : pbuf.below (spaceSize c .pbuf) = true
  rbuf_below : rbuf.below (spaceSize c .rbuf) = true

/-- What rule R51 (c), (d) says of a traversal of an image `sw` by `sh` that has answered `n` requests. -/
structure TraversalOk (c : Config) (sw sh : Word) (m : Mode) (n : Nat) (used : List Coord) : Prop where
  count : n ≤ sw.toNat * sh.toNat
  latch_fits : sw.toNat * sh.toNat ≤ c.maxPixels
  used_random : m = .rng → used.length = n ∧ used.Nodup ∧ ∀ xy ∈ used, xy.1 < sw.toNat ∧ xy.2 < sh.toNat
  used_sequential : m = .seq → used = []

/-- The invariant of a state in the middle of a command that has not suspended: the common prologue has run. -/
structure State.Running (s : State) : Prop where
  mem : MemOk s.cfg s.pix s.pbuf s.rbuf
  traversal : TraversalOk s.cfg s.sw s.sh s.smode s.seqCnt s.used
  flags : s.run = .idle ∧ s.done = false ∧ s.err = false ∧ s.errcode = 0x00#8
  valid : s.rvalid = true → s.bitpos = 64 + 8 * s.flen.toNat ∧ s.flen.toNat ≤ s.cfg.rbufSize
  cursor : s.bitpos ≤ 64 + 8 * s.flen.toNat

section
variable {s t : State}

theorem State.Inv.mem (h : s.Inv) : MemOk s.cfg s.pix s.pbuf s.rbuf :=
  ⟨h.cfg_wf, h.pix_wf, h.pbuf_wf, h.rbuf_wf, h.pix_below, h.pbuf_below, h.rbuf_below⟩

theorem State.Inv.traversal (h : s.Inv) : TraversalOk s.cfg s.sw s.sh s.smode s.seqCnt s.used :=
  ⟨h.count, h.latch_fits, h.used_random, h.used_sequential⟩

/-- The prologue, in `IDLE` or in a command that leaves `GATEWAIT`, starts a command in a state of the invariant. -/
theorem State.Inv.prologue_running (h : s.Inv) : State.Running { prologue s with run := .idle } :=
  ⟨h.mem, h.traversal, ⟨rfl, rfl, rfl, rfl⟩, fun hv => (h.valid hv).2, h.cursor⟩

theorem State.Inv.running (h : s.Inv) (hr : s.run = .idle) : (prologue s).Running := by
  have hp : ({ prologue s with run := .idle } : State) = prologue s := by rw [← hr]; rfl
  exact hp ▸ h.prologue_running

theorem State.Running.inv (h : s.Running) : s.Inv := by
  obtain ⟨hr, hd, he, hc⟩ := h.flags
  exact { h.mem, h.traversal with
    done_err := by simp [hd]
    gate_flags := by simp [hr]
    err_code := by simp [he, hc]
    code_known := by simp [hc]
    valid := fun hv => ⟨hr, h.valid hv⟩
    gate_at := by simp [hr]
    gate_cond := by simp [hr]
    gate_latch := by simp [hr]
    cursor := h.cursor }

/-! ## The end of a command -/

theorem State.Running.completed (h : s.Running) : State.Inv { s with done := true } := by
  obtain ⟨hr, -, he, -⟩ := h.flags
  exact { h.inv with done_err := by simp [he], gate_flags := by simp [hr] }

theorem errorCode_bounds (e : CmdError) : errorCode e ≠ 0x00#8 ∧ (errorCode e).toNat ≤ 8 := by
  cases e <;> decide

/-- Error entry keeps the invariant from every state, a suspended one included (rule R226). -/
theorem State.Inv.raiseError (h : s.Inv) (e : CmdError) : (raiseError e s).Inv :=
  { h with
    done_err := by simp
    gate_flags := by simp
    err_code := by simp [errorCode_bounds e]
    code_known := (errorCode_bounds e).2
    valid := fun hv => ⟨rfl, (h.valid hv).2⟩
    gate_at := by simp
    gate_cond := by simp
    gate_latch := by simp }

/-! ## Registers the invariant of an idle block does not speak of -/

theorem State.Inv.idle_congr (h : s.Inv) (hr : s.run = .idle)
    (ht : t = { s with crcok := t.crcok, gateEn := t.gateEn, width := t.width, height := t.height, plen := t.plen,
                       gateThr := t.gateThr, seedLo := t.seedLo, seedHi := t.seedHi, crcExp := t.crcExp, seqX := t.seqX,
                       seqY := t.seqY, trip := t.trip, crcAcc := t.crcAcc }) : t.Inv := by
  rw [ht]
  exact { h with gate_at := by simp [hr], gate_cond := by simp [hr], gate_latch := by simp [hr] }

/-- The inbox and the answer are no part of the block (log entry 1). -/
theorem State.Inv.respond (h : s.Inv) (a : HostAnswer) : (respond a s).Inv := { h with }

theorem State.Inv.taken (h : s.Inv) (rest : List HostTxn) : State.Inv { s with inbox := rest } := { h with }

theorem State.Inv.setMem_write (h : s.Inv) {sp : Space} {a : Nat} {v : Byte} (ha : a < spaceSize s.cfg sp) :
    (s.setMem sp ((s.mem sp).write a v)).Inv := by
  cases sp with
  | pix => exact { h with pix_wf := Memory.wf_write h.pix_wf, pix_below := Memory.below_write h.pix_below ha }
  | pbuf => exact { h with pbuf_wf := Memory.wf_write h.pbuf_wf, pbuf_below := Memory.below_write h.pbuf_below ha }
  | rbuf => exact { h with rbuf_wf := Memory.wf_write h.rbuf_wf, rbuf_below := Memory.below_write h.rbuf_below ha }

/-! ## Requests -/

/-- A request of a traversal keeps what rule R51 says of it: the new coordinate is inside the image and was not used. -/
theorem Emitted.traversal {xy : Coord} (he : Emitted xy s t) (h : TraversalOk s.cfg s.sw s.sh s.smode s.seqCnt s.used) :
    TraversalOk s.cfg s.sw s.sh s.smode t.seqCnt t.used := by
  have hc : t.seqCnt = s.seqCnt + 1 := by rw [he.rest]
  refine ⟨hc ▸ he.room, h.latch_fits, fun hm => ?_, fun hm => ?_⟩
  · obtain ⟨hl, hn, hi⟩ := h.used_random hm
    obtain ⟨hf, hu⟩ := he.random hm
    rw [hu, hc]
    exact ⟨by simp [hl], List.nodup_cons.2 ⟨hf, hn⟩, by
      simp only [List.mem_cons]
      rintro c (rfl | hmem)
      · exact he.inside
      · exact hi c hmem⟩
  · rw [(he.sequential hm).2.2, h.used_sequential hm]

/-- What the loops of EMBED and EXTRACT leave of `s` at `t`: requests, pixels read and written, bits pulled and bytes stored keep
every other field, and what the invariant says of the traversal and the memories. -/
structure Ran (s t : State) : Prop where
  frame : t = { s with bitpos := t.bitpos, trip := t.trip, seqX := t.seqX, seqY := t.seqY, seqCnt := t.seqCnt,
                       prngS := t.prngS, used := t.used, pix := t.pix, rbuf := t.rbuf, crcAcc := t.crcAcc }
  traversal : TraversalOk s.cfg s.sw s.sh s.smode s.seqCnt s.used → TraversalOk s.cfg s.sw s.sh s.smode t.seqCnt t.used
  mem : MemOk s.cfg s.pix s.pbuf s.rbuf → MemOk s.cfg t.pix s.pbuf t.rbuf

theorem Ran.refl (s : State) : Ran s s := ⟨rfl, id, id⟩

theorem Ran.trans {u : State} (h1 : Ran s t) (h2 : Ran t u) : Ran s u := by
  rw [h1.frame] at h2
  exact ⟨h2.frame, fun h => h2.traversal (h1.traversal h), fun h => h2.mem (h1.mem h)⟩

theorem Emitted.ran {xy : Coord} (he : Emitted xy s t) : Ran s t :=
  ⟨by rw [he.rest], he.traversal, by rw [he.rest]; exact id⟩

theorem State.Running.ran (h : s.Running) (hr : Ran s t) (hv : s.rvalid = true → t.bitpos = s.bitpos)
    (hb : t.bitpos ≤ 64 + 8 * s.flen.toNat) : t.Running := by
  rw [hr.frame]
  exact ⟨hr.mem h.mem, hr.traversal h.traversal, h.flags, fun hv' => hv hv' ▸ h.valid hv', hb⟩

theorem State.Running.emitted {xy : Coord} (h : s.Running) (he : Emitted xy s t) : t.Running := by
  have hb : t.bitpos = s.bitpos := by rw [he.rest]
  exact h.ran he.ran (fun _ => hb) (hb ▸ h.cursor)

theorem State.Running.seqInit (h : s.Running) (hd : s.DimsOk) (m : Mode) : (seqInit m s).Running :=
  ⟨h.mem, ⟨Nat.zero_le _, hd.2.2, fun _ => ⟨rfl, List.nodup_nil, by simp⟩, fun _ => rfl⟩, h.flags, h.valid, h.cursor⟩

theorem MemOk.muxPix {x y : Nat} (h : MemOk s.cfg s.pix s.pbuf s.rbuf)
    (hf : s.width.toNat * s.height.toNat ≤ s.cfg.maxPixels) (hx : x < s.width.toNat) (hy : y < s.height.toNat) :
    MemOk s.cfg (muxPix s x y) s.pbuf s.rbuf :=
  { h with pix_wf := muxPix_wf h.pix_wf, pix_below := muxPix_below hf hx hy h.pix_below }

theorem MemOk.rbuf_write {c : Config} {pix pbuf rbuf : Memory} {a : Nat} {v : Byte} (h : MemOk c pix pbuf rbuf)
    (ha : a < c.rbufSize) : MemOk c pix pbuf (rbuf.write a v) :=
  { h with rbuf_wf := Memory.wf_write h.rbuf_wf, rbuf_below := Memory.below_write h.rbuf_below ha }

end

end Sys2Proof.Machine
end

section
/-! SUPPORT. What EMBED and EXTRACT can leave, case by case: pulling bits, the payload of EXTRACT and its tail, the triplets of
EMBED, and the two bodies. -/

namespace Sys2Proof.Machine

/-! ## Pulling bits -/

/-- The traversal is in step with the bits pulled: a pixel for every three bits begun, and the last one held in `TRIP` with every
slot present (rule R200). -/
def State.InStep (s : State) : Prop := s.seqCnt = (s.bitpos + 2) / 3 ∧ (s.bitpos % 3 ≠ 0 → s.trip.p = 7#3)

/-- What pulling bits leaves of `s` at `t`. -/
structure Pulls (s t : State) : Prop where
  frame : Pulled s t
  traversal : TraversalOk s.cfg s.sw s.sh s.smode s.seqCnt s.used → TraversalOk s.cfg s.sw s.sh s.smode t.seqCnt t.used
  inStep : s.InStep → t.InStep

theorem Pulls.refl (s : State) : Pulls s s := ⟨rfl, id, id⟩

theorem Pulls.trans {s t u : State} (h1 : Pulls s t) (h2 : Pulls t u) : Pulls s u := by
  refine ⟨h1.frame.trans h2.frame, fun h => ?_, fun h => h2.inStep (h1.inStep h)⟩
  have h2' := h2.traversal
  rw [h1.frame] at h2'
  exact h2' (h1.traversal h)

theorem Pulls.ran {s t : State} (h : Pulls s t) : Ran s t := by
  refine ⟨?_, h.traversal, ?_⟩ <;> rw [h.frame]
  exact id

theorem memRead_sat (sp : Space) (a : Nat) (s : State) :
    (memRead sp a s).Sat (fun _ t => t = s) (fun _ => False) fun _ => False := by
  unfold memRead
  split <;> simp

/-- `mux_rd` leaves a triplet with every slot present, or stops. -/
theorem muxRd_sat (x y : Nat) (s : State) :
    (muxRd x y s).Sat (fun _ t => ∃ tr : Trip, tr.p = 7#3 ∧ t = { s with trip := tr }) (fun _ => False) fun _ => False := by
  refine (memRead_sat _ _ s).andThen ?_
  rintro r s rfl
  refine (memRead_sat _ _ s).andThen ?_
  rintro g s rfl
  refine (memRead_sat _ _ s).andThen ?_
  rintro b s rfl
  exact ⟨_, by simp [tripOfSlots, Slot.present], rfl⟩

/-- One bit: the cursor advances by one, or the traversal is at its end and nothing has changed (rule R200). -/
theorem pullBit_sat (s : State) :
    (pullBit s).Sat (fun _ t => Pulls s t ∧ t.bitpos = s.bitpos + 1) (fun t => t = s) fun _ => False := by
  by_cases hm : s.bitpos % 3 = 0
  · rw [pullBit, pullPixel, if_pos hm]
    rcases seqNext_cases s with ⟨xy, u, hn, he⟩ | ⟨-, hn⟩ | ⟨-, -, hn⟩ <;> rw [hn]
    · refine Res.Sat.andThen ((muxRd_sat _ _ u).mono (fun _ _ h => h) (fun _ h => h.elim) fun _ h => h) ?_
      rintro - - ⟨tr, htr, rfl⟩
      have ht := he.traversal
      have hr := he.rest
      have hc : u.seqCnt = s.seqCnt + 1 := by rw [hr]
      have hb : u.bitpos = s.bitpos := by rw [hr]
      refine ⟨⟨?_, ht, fun hi => ⟨?_, fun _ => htr⟩⟩, ?_⟩
      · rw [Pulled, hr]
      · have := hi.1
        simp only [hc, hb]
        omega
      · simp only [hb]
    · rfl
    · trivial
  · rw [pullBit_held hm]
    refine ⟨⟨rfl, id, fun hi => ⟨?_, fun _ => hi.2 hm⟩⟩, rfl⟩
    have := hi.1
    simp only
    omega

theorem pullBits_sat (n v : Nat) (s : State) :
    (pullBits n v s).Sat (fun _ t => Pulls s t ∧ t.bitpos = s.bitpos + n)
      (fun t => Pulls s t ∧ t.bitpos ≤ s.bitpos + n) fun _ => False := by
  induction n generalizing v s with
  | zero => exact ⟨Pulls.refl s, rfl⟩
  | succ n ih =>
    refine ((pullBit_sat s).mono (fun _ _ h => h) ?_ fun _ h => h).andThen fun b t ht => ?_
    · rintro _ rfl
      exact ⟨Pulls.refl _, by omega⟩
    · obtain ⟨ht, hb⟩ := ht
      refine (ih _ t).mono (fun _ u hu => ⟨ht.trans hu.1, ?_⟩) (fun u hu => ⟨ht.trans hu.1, ?_⟩) fun _ h => h
      · have := hu.2
        omega
      · have := hu.2
        omega

/-- A field of `n` bits moves the cursor by `n`, or by less where the traversal ends in it (rule R201). -/
theorem pullField_sat (n : Nat) (s : State) :
    (pullField n s).Sat (fun _ t => Pulls s t ∧ t.bitpos = s.bitpos + n)
      (fun t => Pulls s t ∧ t.bitpos ≤ s.bitpos + n) fun _ => False := pullBits_sat n 0 s

/-! ## The payload of EXTRACT -/

/-- The state with byte `j` of the payload stored and folded (rule R203 step 5). -/
def State.stored (j : Nat) (b : Byte) (s : State) : State :=
  { s with rbuf := s.rbuf.write j b, crcAcc := crcUpdate s.crcAcc b }

theorem extractPayload_succ (n j : Nat) (s : State) :
    extractPayload (n + 1) j s = (pullField 8 s).andThen fun v t =>
      if j < t.cfg.rbufSize then extractPayload n (j + 1) (t.stored j (BitVec.ofNat 8 v)) else .stuck (.blockAccess .rbuf) := by
  refine congrArg (Res.andThen _) (funext fun v => funext fun t => ?_)
  split
  · rename_i h
    rw [memWrite_of_lt h]
    rfl
  · rename_i h
    rw [memWrite_of_ge (Nat.le_of_not_lt h)]
    rfl

theorem Ran.stored {s : State} {j : Nat} {b : Byte} (hj : j < s.cfg.rbufSize) : Ran s (s.stored j b) :=
  ⟨rfl, id, fun h => h.rbuf_write hj⟩

/-- The payload loop stores bytes `j` to `j + n - 1` only, however it ends (rule R203). -/
theorem extractPayload_outside (n j : Nat) (s : State) :
    (extractPayload n j s).All fun t => ∀ a, a < j ∨ j + n ≤ a → t.rbuf.read a = s.rbuf.read a := by
  induction n generalizing j s with
  | zero => exact fun _ _ => rfl
  | succ n ih =>
    rw [extractPayload_succ]
    refine ((pullField_pulled 8 s).mono fun t h => ?_).andThen (p := fun t => t.rbuf = s.rbuf) (fun t h a _ => by rw [h]) ?_
    · rw [h]
    · intro v t ht
      split
      · refine (ih _ _).mono fun u hu a ha => ?_
        rw [hu a (by omega), ← ht]
        exact Memory.read_write_other (by omega)
      · trivial

theorem crcFold_cons (acc : Word) (b : Byte) (bs : List Byte) : crcFold acc (b :: bs) = crcFold (crcUpdate acc b) bs := rfl

/-- The payload loop pulls `8 * n` bits, and where it ends `CRC_ACC` has folded the bytes it stored (rule R203). -/
theorem extractPayload_sat (n j : Nat) (s : State) :
    (extractPayload n j s).Sat
      (fun _ t => Ran s t ∧ t.bitpos = s.bitpos + 8 * n ∧
        (s.rbuf.wf = true → t.crcAcc = crcFold s.crcAcc ((List.range' j n).map t.rbuf.read)))
      (fun t => Ran s t ∧ t.bitpos ≤ s.bitpos + 8 * n) fun _ => False := by
  induction n generalizing j s with
  | zero => exact ⟨Ran.refl s, rfl, fun _ => rfl⟩
  | succ n ih =>
    rw [extractPayload_succ]
    refine ((pullField_sat 8 s).mono (fun _ _ h => h) ?_ fun _ h => h).andThen ?_
    · rintro t ⟨ht, hb⟩
      exact ⟨ht.ran, by omega⟩
    · rintro v t ⟨ht, hb⟩
      split
      · rename_i hj
        have hacc : t.crcAcc = s.crcAcc := by rw [ht.frame]
        have hrbuf : t.rbuf = s.rbuf := by rw [ht.frame]
        have hbyte : (t.stored j (BitVec.ofNat 8 v)).bitpos = t.bitpos := rfl
        refine ((ih (j + 1) _).with_all (extractPayload_outside n (j + 1) _)).mono ?_ ?_ fun _ h => h.1
        · rintro - u ⟨⟨hu, hub, hfold⟩, hout⟩
          refine ⟨ht.ran.trans ((Ran.stored hj).trans hu), by omega, fun hwf => ?_⟩
          rw [← hrbuf] at hwf
          have hread : u.rbuf.read j = BitVec.ofNat 8 v := (hout j (by omega)).trans (Memory.read_write_same hwf)
          rw [hfold (Memory.wf_write hwf), List.range'_succ, List.map_cons, crcFold_cons, hread, ← hacc]
          rfl
        · rintro u ⟨⟨hu, hub⟩, -⟩
          exact ⟨ht.ran.trans ((Ran.stored hj).trans hu), by omega⟩
      · trivial

/-- The last check sets `RVALID` exactly where the trailer is the CRC (rule R203 steps 7, 8). -/
theorem extractVerify_sat (s : State) :
    (extractVerify s).Sat (fun _ t => s.crcVal = s.crcExp ∧ t = { s with crcok := true, rvalid := true })
      (fun t => t = { s with crcok := false }) fun _ => False := by
  unfold extractVerify
  rw [compareCrc_fst]
  split
  · rename_i h
    exact ⟨eq_of_beq h, by simp only [compareCrc, h]⟩
  · rename_i h
    simp only [sat_raised, compareCrc, Bool.eq_false_iff.2 h]

/-! ## The tail of EXTRACT -/

/-- The tail, in any state: where it completes the whole frame is pulled and the trailer is the CRC of the bytes stored; where it
raises nothing readable is given. It never suspends (rule R203). -/
theorem extractTail_sat (s : State) :
    (extractTail s).Sat
      (fun _ t => ∃ u, Ran s u ∧ u.bitpos = s.bitpos + 8 * s.flen.toNat + 32 ∧ s.flen.toNat ≤ s.cfg.rbufSize ∧
        (s.rbuf.wf = true → u.crcAcc = crcFold s.crcAcc (u.recovered s.flen.toNat)) ∧
        t = { u with crcExp := u.crcVal, crcok := true, rvalid := true })
      (fun t => ∃ u x c, Ran s u ∧ u.bitpos ≤ s.bitpos + 8 * s.flen.toNat + 32 ∧ t = { u with crcExp := x, crcok := c })
      fun _ => False := by
  unfold extractTail
  split
  · exact ⟨s, s.crcExp, s.crcok, Ran.refl s, by omega, rfl⟩
  · rename_i hn
    refine ((extractPayload_sat _ 0 s).mono (fun _ _ h => h) ?_ fun _ h => h).andThen ?_
    · rintro t ⟨ht, hb⟩
      exact ⟨t, t.crcExp, t.crcok, ht, by omega, rfl⟩
    rintro - t ⟨ht, hb, hfold⟩
    refine ((pullField_sat 32 t).mono (fun _ _ h => h) ?_ fun _ h => h).andThen ?_
    · rintro u ⟨hu, hub⟩
      exact ⟨u, u.crcExp, u.crcok, ht.trans hu.ran, by omega, rfl⟩
    rintro v u ⟨hu, hub⟩
    refine (extractVerify_sat _).mono ?_ ?_ fun _ h => h
    · rintro - w ⟨hcrc, rfl⟩
      refine ⟨u, ht.trans hu.ran, by omega, by omega, fun hwf => ?_, ?_⟩
      · rw [State.recovered, List.range_eq_range', hu.frame]
        exact hfold hwf
      · exact congrArg (fun x => ({ u with crcExp := x, crcok := true, rvalid := true } : State)) hcrc.symm
    · rintro w rfl
      exact ⟨u, _, _, ht.trans hu.ran, by omega, rfl⟩

/-! ## The triplets of EMBED -/

/-- The sequencer is latched on the image the size registers give, and it fits PIX (rules R62, R161). -/
def State.Latched (s : State) : Prop :=
  s.sw = s.width ∧ s.sh = s.height ∧ s.width.toNat * s.height.toNat ≤ s.cfg.maxPixels

theorem latched_seqInit {s : State} (m : Mode) (h : s.DimsOk) : (seqInit m s).Latched := ⟨rfl, rfl, h.2.2⟩

/-- A request of a latched sequencer is answered inside the image of the size registers. -/
theorem Emitted.latched {s t : State} {xy : Coord} (he : Emitted xy s t) (h : s.Latched) :
    t.Latched ∧ xy.1 < t.width.toNat ∧ xy.2 < t.height.toNat := by
  obtain ⟨hx, hy⟩ := he.inside
  rw [h.1] at hx
  rw [h.2.1] at hy
  rw [he.rest]
  exact ⟨h, hx, hy⟩

/-- The state with the triplet `tr` written to the pixel `xy` and the cursor at `b` (rule R190 steps 4 to 6). -/
def State.tripletWritten (xy : Coord) (tr : Trip) (b : Nat) (s : State) : State :=
  { s with trip := tr, pix := muxPix { s with trip := tr } xy.1 xy.2, bitpos := b }

theorem Ran.tripletWritten {s : State} {xy : Coord} {tr : Trip} {b : Nat} (h : s.Latched) (hx : xy.1 < s.width.toNat)
    (hy : xy.2 < s.height.toNat) : Ran s (s.tripletWritten xy tr b) :=
  ⟨rfl, id, fun hm => MemOk.muxPix (s := { s with trip := tr }) hm h.2.2 hx hy⟩

/-- One turn of the triplet loop of EMBED, on a request that is answered (rule R190 steps 4 to 6). -/
theorem embedLoop_succ {payload : List Byte} {c : Word} {r n k : Nat} {s t : State} {xy : Coord} (hn : seqNext s = .ok xy t)
    (h : t.Latched) (hx : xy.1 < t.width.toNat) (hy : xy.2 < t.height.toNat) :
    embedLoop payload c r (n + 1) k s =
      embedLoop payload c r n (k + 1) (t.tripletWritten xy (frameTrip payload c r k) (min (3 * k + 3) r)) := by
  rw [embedLoop, hn, andThen_ok, muxWr_ok (by exact h.2.2) (by exact hx) (by exact hy)]
  rfl

/-- The triplet loop of EMBED, in a state whose cursor is within `r` bits, keeps the cursor within `r` bits (rule R190 steps 4
to 7). -/
theorem embedLoop_ran (payload : List Byte) (c : Word) (r n k : Nat) {s : State} (h : s.Latched) (hb : s.bitpos ≤ r) :
    (embedLoop payload c r n k s).Ends fun t => Ran s t ∧ t.bitpos ≤ r := by
  induction n generalizing k s with
  | zero => exact ⟨Ran.refl s, hb⟩
  | succ n ih =>
    rcases seqNext_cases s with ⟨xy, t, hn, he⟩ | ⟨-, hn⟩ | ⟨-, -, hn⟩
    · obtain ⟨ht, hx, hy⟩ := he.latched h
      rw [embedLoop_succ hn ht hx hy]
      exact Res.Ends.mono (ih (k + 1) ht (Nat.min_le_right _ _)) fun u hu =>
        ⟨he.ran.trans ((Ran.tripletWritten ht hx hy).trans hu.1), hu.2⟩
    · rw [embedLoop, hn]
      exact ⟨Ran.refl s, hb⟩
    · rw [embedLoop, hn]
      trivial

/-! ## The two bodies -/

theorem embedFrame_ends {p : State → Prop} {m : Mode} {payload : List Byte} {s : State} (hd : s.DimsOk) (hb : s.bitpos = 0)
    (h1 : p s)
    (h2 : ∀ t, Ran (seqInit m s) t → Written (seqInit m s) t → t.bitpos ≤ frameBits s.flen.toNat → p t) :
    (embedFrame m payload s).Ends p := by
  unfold embedFrame
  split
  · exact h1
  · refine ((embedLoop_ran _ _ _ _ _ (latched_seqInit m hd) (by simp [hb])).and_all (embedLoop_written _ _ _ _ _ _)).mono ?_
    rintro t ⟨⟨hr, hb⟩, hw⟩
    exact h2 t hr hw hb

/-- EMBED: refused by a check it has begun with `BITPOS`, `TRIP`, `CRCOK`, `RVALID`, then also `FLEN` and `CRC_ACC`, written; past
the checks it ends somewhere in the traversal, within the frame (rule R190). -/
theorem embedBody_ends {p : State → Prop} {m : Mode} {s : State} (h0 : p (macroPrologue s))
    (h1 : ∀ a, p { macroPrologue s with flen := s.plen, crcAcc := a })
    (h2 : ∀ a t, s.DimsOk → Ran (seqInit m { macroPrologue s with flen := s.plen, crcAcc := a }) t →
      Written (seqInit m { macroPrologue s with flen := s.plen, crcAcc := a }) t → t.bitpos ≤ frameBits s.plen.toNat → p t) :
    (embedBody m s).Ends p := by
  unfold embedBody
  rcases checkDims_cases (macroPrologue s) with ⟨hd, hc⟩ | ⟨-, hc⟩ <;> rw [hc]
  · rw [andThen_ok]
    split
    · exact h0
    · rename_i hp
      rw [foldPbuf_of_le (by simpa using hp), andThen_ok]
      exact embedFrame_ends (s := { macroPrologue s with flen := s.plen, crcAcc := _ }) hd rfl (h1 _) (h2 _ · hd)
  · exact h0

/-- EXTRACT: refused by the dimension check, ended in the length field, or at the gate with 32 bits pulled (rule R202). -/
theorem extractBody_sat {ok : Unit → State → Prop} {err sus : State → Prop} {m : Mode} {s : State}
    (h0 : err (macroPrologue s))
    (h1 : ∀ t, s.DimsOk → Pulls (seqInit m (macroPrologue s)) t → t.bitpos ≤ 32 → err t)
    (h2 : ∀ t l, s.DimsOk → Pulls (seqInit m (macroPrologue s)) t → t.bitpos = 32 →
      (extractGate { t with flen := l }).Sat ok err sus) : (extractBody m s).Sat ok err sus := by
  unfold extractBody
  rcases checkDims_cases (macroPrologue s) with ⟨hd, hc⟩ | ⟨-, hc⟩ <;> rw [hc]
  · rw [andThen_ok]
    refine ((pullField_sat 32 _).mono (fun _ _ h => h) ?_ fun _ h => h.elim).andThen ?_
    · rintro t ⟨ht, hb⟩
      exact h1 t hd ht (by simpa using hb)
    · rintro l t ⟨ht, hb⟩
      exact h2 t _ hd ht (by simpa using hb)
  · exact h0

end Sys2Proof.Machine
end

section
/-! SUPPORT. The bodies of EMBED, EXTRACT and GATE_YES keep the invariant, and EXTRACT and GATE_YES give a payload only where it is
verified. -/

namespace Sys2Proof.Machine

theorem State.Running.macroPrologue {s : State} (h : s.Running) : (macroPrologue s).Running :=
  ⟨h.mem, h.traversal, h.flags, by simp, by simp⟩

/-! ## EMBED -/

theorem embedBody_running {m : Mode} {s : State} (h : s.Running) : (embedBody m s).Ends State.Running := by
  have h0 := h.macroPrologue
  have h1 : ∀ a, State.Running { macroPrologue s with flen := s.plen, crcAcc := a } := fun a =>
    ⟨h0.mem, h0.traversal, h0.flags, by simp, by simp⟩
  refine embedBody_ends h0 h1 fun a t hd hr _ hb => ?_
  refine ((h1 a).seqInit hd m).ran hr (by simp) (le_of_le_of_eq hb ?_)
  simp only [frameBits, seqInit_flen]
  omega

/-! ## The tail and the gate of EXTRACT -/

/-- The end of an extraction that gives a payload (rule R203). -/
structure State.Verified (s : State) : Prop where
  running : s.Running
  readable : s.rvalid = true
  crcok : s.crcok = true
  trailer : s.crcExp = crc32 (s.recovered s.flen.toNat)
  folded : s.crcVal = s.crcExp

/-- The end of an extraction that gives none. -/
structure State.Unread (s : State) : Prop where
  running : s.Running
  unreadable : s.rvalid = false

/-- Where an extraction stands after the length field: 32 bits pulled, nothing folded, nothing readable (rules R202, R204). -/
structure State.AtTail (s : State) : Prop where
  running : s.Running
  bitpos : s.bitpos = 32
  crcAcc : s.crcAcc = 0xFFFFFFFF#32
  unreadable : s.rvalid = false

theorem extractTail_verified {s : State} (h : s.AtTail) :
    (extractTail s).Sat (fun _ => State.Verified) State.Unread fun _ => False := by
  obtain ⟨hs, hb, hc, hv⟩ := h
  have hran : ∀ {u}, Ran s u → u.bitpos ≤ s.bitpos + 8 * s.flen.toNat + 32 → u.Running := fun hu hub =>
    hs.ran hu (by simp [hv]) (by omega)
  refine (extractTail_sat s).mono ?_ ?_ fun _ h => h
  · rintro - _ ⟨u, hu, hub, hl, hfold, rfl⟩
    have hr := hran hu (by omega)
    have hlen : u.flen = s.flen := by rw [hu.frame]
    have hcfg : u.cfg = s.cfg := by rw [hu.frame]
    refine ⟨⟨hr.mem, hr.traversal, hr.flags, fun _ => ⟨?_, ?_⟩, hr.cursor⟩, rfl, rfl, ?_, rfl⟩
    · show u.bitpos = 64 + 8 * u.flen.toNat
      rw [hlen]
      omega
    · show u.flen.toNat ≤ u.cfg.rbufSize
      rw [hlen, hcfg]
      exact hl
    · show u.crcAcc ^^^ 0xFFFFFFFF#32 = crc32 (u.recovered u.flen.toNat)
      rw [hlen, hfold hs.mem.rbuf_wf, hc]
      rfl
  · rintro _ ⟨u, x, c, hu, hub, rfl⟩
    have hr := hran hu hub
    have hrv : u.rvalid = false := by rw [hu.frame]; exact hv
    exact ⟨⟨hr.mem, hr.traversal, hr.flags, hr.valid, hr.cursor⟩, hrv⟩

/-- A suspended extraction (rule R204). -/
structure State.Suspended (s : State) : Prop where
  inv : s.Inv
  gatewait : s.run = .gatewait

theorem State.AtTail.suspended {s : State} (h : s.AtTail) (hl : s.Latched) (hi : s.InStep) (hk : s.crcok = false)
    (hg : s.gateFires = true) : State.Suspended { s with run := .gatewait } := by
  obtain ⟨hs, hb, hc, hv⟩ := h
  obtain ⟨-, hd, he, hcode⟩ := hs.flags
  obtain ⟨hen, hthr⟩ : s.gateEn = true ∧ s.gateThr.toNat < s.flen.toNat := by simpa [State.gateFires] using hg
  have hcnt : s.seqCnt = 11 := by rw [hi.1, hb]
  have hp : s.trip.p = 7#3 := hi.2 (by omega)
  refine ⟨{ hs.inv with
    gate_flags := fun _ => ⟨hd, he, hv⟩
    valid := by simp [hv]
    gate_at := fun _ => ⟨hb, hcnt, hc, hp, hk, hcode⟩
    gate_cond := fun _ => ⟨hen, hthr⟩
    gate_latch := fun _ => ⟨hl.1, hl.2.1⟩ }, rfl⟩

theorem extractGate_verified {s : State} (h : s.AtTail) (hl : s.Latched) (hi : s.InStep) (hk : s.crcok = false) :
    (extractGate s).Sat (fun _ => State.Verified) State.Unread State.Suspended := by
  unfold extractGate
  split
  · rename_i hg
    exact h.suspended hl hi hk hg
  · exact Res.Sat.mono (extractTail_verified h) (fun _ _ h => h) (fun _ h => h) fun _ h => h.elim

/-- EXTRACT from the middle of a command: a verified payload, none, or a suspension. -/
theorem extractBody_verified {m : Mode} {s : State} (h : s.Running) :
    (extractBody m s).Sat (fun _ => State.Verified) State.Unread State.Suspended := by
  have h0 := h.macroPrologue
  refine extractBody_sat ⟨h0, rfl⟩ (fun t hd ht hb => ?_) fun t l hd ht hb => ?_
  · have hv : t.rvalid = false := by rw [ht.frame]; rfl
    exact ⟨(h0.seqInit hd m).ran ht.ran (by simp) (le_trans hb (by simp)), hv⟩
  · have hr := (h0.seqInit hd m).ran ht.ran (by simp) (le_trans hb.le (by simp))
    have hv : t.rvalid = false := by rw [ht.frame]; rfl
    have hk : t.crcok = false := by rw [ht.frame]; rfl
    have hacc : t.crcAcc = 0xFFFFFFFF#32 := by rw [ht.frame]; rfl
    have hl : t.Latched := by rw [ht.frame]; exact latched_seqInit m hd
    have hi : t.InStep := ht.inStep ⟨by simp, by simp⟩
    refine extractGate_verified (s := { t with flen := l }) ⟨⟨hr.mem, hr.traversal, hr.flags, ?_, ?_⟩, hb, hacc, hv⟩ hl hi hk
    · simp [hv]
    · simp only [hb]
      omega

/-- Where a suspended EXTRACT stands when GATE_YES resumes it (rule R205). -/
theorem State.Inv.resumed {s : State} (h : s.Inv) (hr : s.run = .gatewait) :
    State.AtTail { prologue s with run := .idle } := by
  obtain ⟨hb, -, hc, -⟩ := h.gate_at hr
  obtain ⟨-, -, hv⟩ := h.gate_flags hr
  exact ⟨h.prologue_running, hb, hc, hv⟩

end Sys2Proof.Machine
end

section
/-! SUPPORT. Every step keeps the invariant (spec/10_state.md rule R51): command by command, then transaction by transaction. -/

namespace Sys2Proof.Machine

/-! ## Commands -/

theorem State.Inv.clear {s : State} (h : s.Inv) : (clear (prologue s)).Inv :=
  State.Running.inv ⟨h.mem, ⟨by simp, by simp, fun _ => ⟨rfl, List.nodup_nil, by simp⟩, by simp⟩, ⟨rfl, rfl, rfl, rfl⟩, by simp,
    by simp⟩

/-- The body of a command that starts in `IDLE`, from the middle of a command: it ends there, or suspended. -/
theorem commandBody_running {i : Instr} (hi : i ≠ .gateYes) {u : State} (hu : u.Running) :
    (commandBody i u).Sat (fun _ => State.Running) State.Running State.Suspended := by
  cases i with
  | nop => exact hu
  | clr => exact hu
  | crcInit => exact ⟨hu.mem, hu.traversal, hu.flags, hu.valid, hu.cursor⟩
  | crcByte b => exact ⟨hu.mem, hu.traversal, hu.flags, hu.valid, hu.cursor⟩
  | crcBuf => exact (crcBufBody_ends fun _ => ⟨hu.mem, hu.traversal, hu.flags, hu.valid, hu.cursor⟩).sat
  | crcChk => exact (crcChkBody_ends fun _ => ⟨hu.mem, hu.traversal, hu.flags, hu.valid, hu.cursor⟩).sat
  | seqInit m => exact (seqInitBody_ends hu fun hd => hu.seqInit hd m).sat
  | seqNext => exact (seqNextBody_ends hu fun _ _ he => hu.emitted he).sat
  | muxWr =>
    exact (muxWrBody_ends hu fun ⟨hm, hx, hy⟩ =>
      ⟨hu.mem.muxPix hm hx hy, hu.traversal, hu.flags, hu.valid, hu.cursor⟩).sat
  | muxRd => exact (muxRdBody_ends fun _ => ⟨hu.mem, hu.traversal, hu.flags, hu.valid, hu.cursor⟩).sat
  | embed m => exact (embedBody_running hu).sat
  | extract m => exact (extractBody_verified hu).mono (fun _ _ h => h.running) (fun _ h => h.running) fun _ h => h
  | gateYes => exact absurd rfl hi
  | gateNo => exact ⟨hu.mem, hu.traversal, ⟨rfl, hu.flags.2⟩, hu.valid, hu.cursor⟩

/-- The body of a command that `RUN` accepts, from a state of the invariant: in `GATEWAIT` only GATE_YES and GATE_NO start (rule
R95), and both leave it first. -/
theorem commandBody_of_accepted {i : Instr} (hn : i ≠ .nop) (hc : i ≠ .clr) {s : State} (hs : s.Inv)
    (ha : accepted i s.run = true) :
    (commandBody i (prologue s)).Sat (fun _ => State.Running) State.Running State.Suspended := by
  cases hr : s.run with
  | idle => exact commandBody_running (by rintro rfl; simp [accepted, hr] at ha) (hs.running hr)
  | gatewait =>
    cases i with
    | nop => exact absurd rfl hn
    | clr => exact absurd rfl hc
    | gateYes =>
      exact (extractTail_verified (hs.resumed hr)).mono (fun _ _ h => h.running) (fun _ h => h.running) fun _ h => h.elim
    | gateNo => exact hs.prologue_running
    | _ => simp [accepted, hr] at ha

/-- Every command keeps the invariant. -/
theorem exec_inv {i : Instr} {s t : State} (hs : s.Inv) (h : exec i s = .next t) : t.Inv := by
  by_cases hn : i = .nop
  · subst hn
    cases h
    exact hs
  by_cases hc : i = .clr
  · subst hc
    cases h
    exact hs.clear
  rw [exec_eq_runCommand hn hc] at h
  exact runCommand_sat h (fun _ => hs.raiseError _) (commandBody_of_accepted hn hc hs) (fun _ hu => hu.completed)
    (fun e _ hu => hu.inv.raiseError e) fun _ hu => hu.inv

/-! ## Transactions -/

theorem startCommand_inv {w : Word} {s t : State} (hs : s.Inv) (h : startCommand w s = .next t) : t.Inv := by
  unfold startCommand at h
  split at h
  · exact exec_inv hs h
  · cases h
    exact hs.raiseError _

theorem hostRead_inv {sp : Space} {a : Nat} {s : State} (hs : s.Inv) : (hostRead sp a s).Inv := by
  unfold hostRead
  split <;> exact hs.respond _

theorem hostReadRbuf_inv {j : Nat} {s : State} (hs : s.Inv) : (hostReadRbuf j s).Inv := by
  unfold hostReadRbuf
  split
  · exact hostRead_inv hs
  · exact hs.respond _

theorem hostWrite_inv {sp : Space} {a : Nat} {v : Byte} {s : State} (hs : s.Inv) : (hostWrite sp a v s).Inv := by
  unfold hostWrite
  split
  · rename_i hw
    simp only [Bool.and_eq_true, decide_eq_true_eq] at hw
    exact (hs.setMem_write hw.2).respond _
  · exact hs.respond _

/-- The host writes a register of the configuration in `IDLE`, and none the invariant of an idle block speaks of (rule R69). -/
theorem writeCsr_inv {r : Csr} {v : Word} {s t : State} (hs : s.Inv) (hr : s.run = .idle) (h : writeCsr r v s = some t) :
    t.Inv := by
  cases r <;> cases h <;> exact hs.idle_congr hr rfl

theorem csrWriteTo_inv {r : Csr} {v : Word} {s t : State} (hs : s.Inv) (h : csrWriteTo r v s = .next t) : t.Inv := by
  unfold csrWriteTo at h
  split at h
  · exact startCommand_inv (hs.respond _) h
  · split at h
    · rename_i hw
      split at h <;> cases h
      · rename_i u hu
        exact (writeCsr_inv hs (eq_of_beq hw) hu).respond _
      · exact hs.respond _
    · cases h
      exact hs.respond _

theorem performTxn_inv {x : HostTxn} {s t : State} (hs : s.Inv) (h : performTxn x s = .next t) : t.Inv := by
  cases x with
  | csrRead wd off =>
    simp only [performTxn] at h
    split at h <;> cases h <;> exact hs.respond _
  | csrWrite wd off v =>
    simp only [performTxn] at h
    split at h
    · exact csrWriteTo_inv hs h
    · cases h
      exact hs.respond _
  | pixRead a => cases h; exact hostRead_inv hs
  | pixWrite a v => cases h; exact hostWrite_inv hs
  | pbufRead j => cases h; exact hostRead_inv hs
  | pbufWrite j v => cases h; exact hostWrite_inv hs
  | rbufRead j => cases h; exact hostReadRbuf_inv hs
  | rbufWrite j v => cases h; exact hs.respond _

/-- Settles O11, by the host's transaction: a refused or a plain access keeps every piece of the invariant, and a command keeps
it by what its body can do. -/
theorem everyStepKeepsTheInvariant : Obligations.EveryStepKeepsTheInvariant := by
  intro s t hs h
  unfold step hostStep at h
  split at h
  · cases h
    exact hs
  · exact performTxn_inv (hs.taken _) h

end Sys2Proof.Machine
end

section
/-! SUPPORT. What a command leaves, said of every state: one outcome flag (rule R25), a verified payload or none (rule R208), and
the registers and memories each command may write. -/

namespace Sys2Proof.Machine

/-! ## The outcome flags -/

/-- The common prologue has run, and the command has neither ended nor suspended. -/
def State.Calm (s : State) : Prop := s.run = .idle ∧ s.done = false ∧ s.err = false

theorem Ran.calm {s t : State} (hr : Ran s t) (h : s.Calm) : t.Calm := by
  rw [hr.frame]
  exact h

theorem extractTail_calm {s : State} (h : s.Calm) : (extractTail s).Ends State.Calm := by
  refine Res.Sat.mono (extractTail_sat s) ?_ ?_ fun _ h => h
  · rintro - _ ⟨u, hu, -, -, -, rfl⟩
    exact hu.calm h
  · rintro _ ⟨u, x, c, hu, -, rfl⟩
    exact hu.calm h

/-- The body of a command that `RUN` accepts leaves the flags to the epilogue, but that it may suspend. -/
theorem commandBody_calm {i : Instr} (hn : i ≠ .nop) (hc : i ≠ .clr) {s : State} (ha : accepted i s.run = true)
    (h : s.done = false ∧ s.err = false) :
    (commandBody i s).Sat (fun _ => State.Calm) State.Calm fun t => t.run = .gatewait ∧ t.done = false ∧ t.err = false := by
  have idle (hr : (s.run == .idle) = true) : s.Calm := ⟨eq_of_beq hr, h⟩
  cases i with
  | nop => exact absurd rfl hn
  | clr => exact absurd rfl hc
  | crcInit => exact idle ha
  | crcByte b => exact idle ha
  | crcBuf => exact (crcBufBody_ends fun _ => idle ha).sat
  | crcChk => exact (crcChkBody_ends fun _ => idle ha).sat
  | seqInit m => exact (seqInitBody_ends (idle ha) fun _ => idle ha).sat
  | seqNext => exact (seqNextBody_ends (idle ha) fun _ _ he => he.ran.calm (idle ha)).sat
  | muxWr => exact (muxWrBody_ends (idle ha) fun _ => idle ha).sat
  | muxRd => exact (muxRdBody_ends fun _ => idle ha).sat
  | embed m => exact (embedBody_ends (idle ha) (fun _ => idle ha) fun _ _ _ hr _ _ => hr.calm (idle ha)).sat
  | extract m =>
    refine extractBody_sat (idle ha) (fun t _ ht _ => ht.ran.calm (idle ha)) fun t l _ ht _ => ?_
    have hl := ht.ran.calm (idle ha)
    unfold extractGate
    split
    · exact ⟨rfl, hl.2⟩
    · exact (extractTail_calm (s := { t with flen := l }) hl).sat
  | gateYes => exact (extractTail_calm (s := { s with run := .idle }) ⟨rfl, h⟩).sat
  | gateNo => exact (⟨rfl, h⟩ : State.Calm { s with run := .idle })

/-- Exactly one of `DONE`, `ERR`, `GATEWAIT` is 1 (rule R25). -/
def State.OneOutcome (t : State) : Prop :=
  (t.done = true ∧ t.err = false ∧ t.run = .idle) ∨ (t.done = false ∧ t.err = true ∧ t.run = .idle) ∨
  (t.done = false ∧ t.err = false ∧ t.run = .gatewait)

/-- Settles O15: the prologue clears both flags, the body leaves them, and the epilogue sets one, or the command suspends. -/
theorem exactlyOneOutcomeFlagAfterACommand : Obligations.ExactlyOneOutcomeFlagAfterACommand := by
  intro s t i hn hc h
  rw [exec_eq_runCommand hn hc] at h
  exact runCommand_sat (q := State.OneOutcome) h (fun _ => .inr (.inl ⟨rfl, rfl, rfl⟩))
    (fun ha => commandBody_calm hn hc ha ⟨rfl, rfl⟩)
    (fun u ⟨hr, _, he⟩ => .inl ⟨rfl, he, hr⟩) (fun e u _ => .inr (.inl ⟨rfl, rfl, rfl⟩))
    (fun u ⟨hr, hd, he⟩ => .inr (.inr ⟨hd, he, hr⟩))

/-! ## A verified payload or none -/

/-- What the end of an EXTRACT or GATE_YES says of the payload (rule R208). -/
def State.PayloadVerified (t : State) : Prop :=
  (t.rvalid = true ↔ t.done = true) ∧
  (t.rvalid = true → t.crcok = true ∧ t.crcExp = crc32 (t.recovered t.flen.toNat) ∧ t.crcAcc ^^^ 0xFFFFFFFF#32 = t.crcExp)

theorem State.Verified.completed {u : State} (h : u.Verified) : State.PayloadVerified { u with done := true } :=
  ⟨by simp [h.readable], fun _ => ⟨h.crcok, h.trailer, h.folded⟩⟩

theorem State.PayloadVerified.of_unread {t : State} (hv : t.rvalid = false) (hd : t.done = false) : t.PayloadVerified :=
  ⟨by simp [hv, hd], by simp [hv]⟩

theorem State.Suspended.payloadVerified {t : State} (h : t.Suspended) : t.PayloadVerified := by
  obtain ⟨hd, -, hv⟩ := h.inv.gate_flags h.gatewait
  exact .of_unread hv hd

/-- Settles O48: a payload is given only by the last check of the tail, in a state whose `CRC_ACC` has folded the bytes stored. -/
theorem readablePayloadIsVerified : Obligations.ReadablePayloadIsVerified := by
  rintro s t i hs (⟨⟨m, rfl⟩, hr⟩ | ⟨rfl, hr⟩) h
  · rw [exec_eq_runCommand (by simp) (by simp)] at h
    exact runCommand_sat (q := State.PayloadVerified) h (fun ha => by simp [accepted, hr] at ha)
      (fun _ => extractBody_verified (hs.running hr)) (fun _ hu => hu.completed) (fun _ _ hu => .of_unread hu.unreadable rfl)
      fun _ hu => hu.payloadVerified
  · rw [exec_eq_runCommand (by simp) (by simp)] at h
    exact runCommand_sat (q := State.PayloadVerified) h (fun ha => by simp [accepted, hr] at ha)
      (fun _ => extractTail_verified (hs.resumed hr)) (fun _ hu => hu.completed) (fun _ _ hu => .of_unread hu.unreadable rfl)
      fun _ hu => hu.elim

/-! ## The write list of each command -/

/-- The state with the outcome of a command left out: `RUN`, `DONE`, `ERR` and `ERRCODE`. -/
def State.unflagged (s : State) : State := { s with run := .idle, done := false, err := false, errcode := 0x00#8 }

/-- The write list of each command (the command rules, spec/10_state.md rules R43, R44): from `s` to `t` nothing else changes but
the outcome. EXTRACT and GATE_YES store bytes of RBUF below `FLEN` only. -/
def Writes (i : Instr) (s t : State) : Prop :=
  match i with
  | .nop => t.unflagged = s.unflagged
  | .clr => t.unflagged = (clear s).unflagged
  | .crcInit => t.unflagged = { s.unflagged with crcAcc := t.crcAcc }
  | .crcByte _ => t.unflagged = { s.unflagged with crcAcc := t.crcAcc }
  | .crcBuf => t.unflagged = { s.unflagged with crcAcc := t.crcAcc }
  | .crcChk => t.unflagged = { s.unflagged with crcok := t.crcok }
  | .seqInit _ =>
    t.unflagged = { s.unflagged with sw := t.sw, sh := t.sh, smode := t.smode, prngS := t.prngS, used := t.used,
                                     seqCnt := t.seqCnt }
  | .seqNext =>
    t.unflagged = { s.unflagged with seqX := t.seqX, seqY := t.seqY, prngS := t.prngS, used := t.used, seqCnt := t.seqCnt }
  | .muxWr => t.unflagged = { s.unflagged with pix := t.pix }
  | .muxRd => t.unflagged = { s.unflagged with trip := t.trip }
  | .embed _ =>
    t.unflagged = { s.unflagged with
      bitpos := t.bitpos, trip := t.trip, flen := t.flen, crcAcc := t.crcAcc, rvalid := t.rvalid, crcok := t.crcok,
      sw := t.sw, sh := t.sh, smode := t.smode, seqX := t.seqX, seqY := t.seqY, prngS := t.prngS, used := t.used,
      seqCnt := t.seqCnt, pix := t.pix }
  | .extract _ =>
    t.unflagged = { s.unflagged with
      bitpos := t.bitpos, trip := t.trip, flen := t.flen, crcAcc := t.crcAcc, rvalid := t.rvalid, crcok := t.crcok,
      sw := t.sw, sh := t.sh, smode := t.smode, seqX := t.seqX, seqY := t.seqY, prngS := t.prngS, used := t.used,
      seqCnt := t.seqCnt, crcExp := t.crcExp, rbuf := t.rbuf } ∧
    ∀ a, t.flen.toNat ≤ a → t.rbuf.read a = s.rbuf.read a
  | .gateYes =>
    t.unflagged = { s.unflagged with
      bitpos := t.bitpos, trip := t.trip, crcAcc := t.crcAcc, rvalid := t.rvalid, crcok := t.crcok, seqX := t.seqX,
      seqY := t.seqY, prngS := t.prngS, used := t.used, seqCnt := t.seqCnt, crcExp := t.crcExp, rbuf := t.rbuf } ∧
    ∀ a, t.flen.toNat ≤ a → t.rbuf.read a = s.rbuf.read a
  | .gateNo => t.unflagged = s.unflagged

/-- The tail stores bytes below `FLEN` only, however it ends (rules R203, R271). -/
theorem extractTail_outside (s : State) :
    (extractTail s).All fun t => Tailed s t ∧ ∀ a, t.flen.toNat ≤ a → t.rbuf.read a = s.rbuf.read a := by
  have outside : (extractTail s).All fun t => ∀ a, s.flen.toNat ≤ a → t.rbuf.read a = s.rbuf.read a := by
    unfold extractTail
    split
    · exact fun _ _ => rfl
    · refine Res.All.andThen (p := fun t => ∀ a, s.flen.toNat ≤ a → t.rbuf.read a = s.rbuf.read a)
        ((extractPayload_outside _ 0 s).mono fun t h a ha => h a (.inr (by omega))) (fun _ h => h) fun _ t ht => ?_
      refine Res.All.andThen (p := fun u => u.rbuf = t.rbuf) ((pullField_pulled 32 t).mono fun u h => by rw [h])
        (fun u h => h ▸ ht) fun v u hu => ?_
      unfold extractVerify
      split <;> exact fun a ha => hu ▸ ht a ha
  refine ((extractTail_tailed s).and outside).mono fun t ⟨ht, ho⟩ => ⟨ht, ?_⟩
  have hl : t.flen = s.flen := by rw [ht]
  exact hl ▸ ho

theorem extractBody_writes (m : Mode) (s : State) : (extractBody m s).All (Writes (.extract m) s) := by
  refine Res.Sat.all (extractBody_sat ⟨rfl, fun _ _ => rfl⟩ (fun t _ ht _ => ?_) fun t l _ ht _ => ?_)
  · have hf := ht.frame
    refine ⟨?_, fun a _ => ?_⟩ <;> rw [hf] <;> rfl
  · have hf := ht.frame
    have hr : t.rbuf = s.rbuf := by rw [hf]; rfl
    unfold extractGate
    split
    · refine ⟨?_, fun a _ => congrArg (Memory.read · a) hr⟩
      rw [hf]
      rfl
    · refine Res.All.sat ((extractTail_outside _).mono fun u ⟨hu, ho⟩ => ⟨?_, hr ▸ ho⟩)
      rw [hu, hf]
      rfl

/-- The body of a command writes its list. -/
theorem commandBody_writes {i : Instr} (hc : i ≠ .clr) (s : State) : (commandBody i s).All (Writes i s) := by
  cases i with
  | nop => exact rfl
  | clr => exact absurd rfl hc
  | crcInit => exact rfl
  | crcByte b => exact rfl
  | crcBuf => exact Res.Ends.all (crcBufBody_ends fun _ => rfl)
  | crcChk => exact Res.Ends.all (crcChkBody_ends fun _ => rfl)
  | seqInit m => exact Res.Ends.all (seqInitBody_ends rfl fun _ => rfl)
  | seqNext => exact Res.Ends.all (seqNextBody_ends rfl fun _ _ he => by rw [he.rest]; rfl)
  | muxWr => exact Res.Ends.all (muxWrBody_ends rfl fun _ => rfl)
  | muxRd => exact Res.Ends.all (muxRdBody_ends fun _ => rfl)
  | embed m => exact Res.Ends.all (embedBody_ends rfl (fun _ => rfl) fun _ _ _ _ hw _ => by rw [hw]; rfl)
  | extract m => exact extractBody_writes m s
  | gateYes =>
    refine (extractTail_outside _).mono fun t ⟨ht, ho⟩ => ⟨?_, ho⟩
    rw [ht]
    rfl
  | gateNo => exact rfl

end Sys2Proof.Machine
end

section
/-! SUPPORT. The frame of every command, read off its write list, and the bounds of the two counters. -/

namespace Sys2Proof.Machine

/-! ## From the body to the command -/

theorem Writes.raised {i : Instr} (hc : i ≠ .clr) (e : CmdError) (s : State) : Writes i s (raiseError e s) := by
  cases i with
  | clr => exact absurd rfl hc
  | extract m => exact ⟨rfl, fun _ _ => rfl⟩
  | gateYes => exact ⟨rfl, fun _ _ => rfl⟩
  | _ => exact rfl

/-- A command that gives a next state has written its list, and the outcome. -/
theorem exec_writes {i : Instr} {s t : State} (h : exec i s = .next t) : Writes i s t := by
  by_cases hn : i = .nop
  · subst hn
    cases h
    exact rfl
  by_cases hc : i = .clr
  · subst hc
    cases h
    exact rfl
  rw [exec_eq_runCommand hn hc] at h
  exact runCommand_sat (q := Writes i s) h (fun _ => .raised hc _ s) (fun _ => (commandBody_writes hc (prologue s)).sat)
    (fun _ hu => hu) (fun _ _ hu => hu) fun _ hu => hu

/-! ## The frame, register by register -/

section
variable {i : Instr} {s t : State}

/-- What only the host writes: the configuration registers, PBUF, the OPEN parameters, the inbox and the answer. -/
def State.hostSide (s : State) : (Bool × Word × Word × Word × Word × Word × Word) × Memory × Config × List HostTxn × HostAnswer :=
  ((s.gateEn, s.width, s.height, s.plen, s.gateThr, s.seedLo, s.seedHi), s.pbuf, s.cfg, s.inbox, s.answer)

/-- The state the sequencer holds between requests (rules R40, R46, R47). -/
def State.sequencer (s : State) : Word × Word × Mode × Nat × List Coord × Nat :=
  (s.sw, s.sh, s.smode, s.prngS, s.used, s.seqCnt)

theorem Writes.hostSide (h : Writes i s t) : t.hostSide = s.hostSide := by
  cases i with
  | extract m => exact (congrArg State.hostSide h.1 :)
  | gateYes => exact (congrArg State.hostSide h.1 :)
  | _ => exact (congrArg State.hostSide h :)

theorem Writes.pix (h : Writes i s t) (hw : i ≠ .muxWr) (he : ∀ m, i ≠ .embed m) : t.pix = s.pix := by
  cases i with
  | muxWr => exact absurd rfl hw
  | embed m => exact absurd rfl (he m)
  | extract m => exact (congrArg State.pix h.1 :)
  | gateYes => exact (congrArg State.pix h.1 :)
  | _ => exact (congrArg State.pix h :)

theorem Writes.rbuf (h : Writes i s t) (he : ∀ m, i ≠ .extract m) (hy : i ≠ .gateYes) : t.rbuf = s.rbuf := by
  cases i with
  | extract m => exact absurd rfl (he m)
  | gateYes => exact absurd rfl hy
  | _ => exact (congrArg State.rbuf h :)

theorem Writes.rbuf_above (h : Writes i s t) (a : Nat) (ha : t.flen.toNat ≤ a) : t.rbuf.read a = s.rbuf.read a := by
  cases i with
  | extract m => exact h.2 a ha
  | gateYes => exact h.2 a ha
  | _ => exact congrArg (Memory.read · a) (h.rbuf (by simp) (by simp))

theorem Writes.crcExp (h : Writes i s t) (he : ∀ m, i ≠ .extract m) (hy : i ≠ .gateYes) (hc : i ≠ .clr) :
    t.crcExp = s.crcExp := by
  cases i with
  | extract m => exact absurd rfl (he m)
  | gateYes => exact absurd rfl hy
  | clr => exact absurd rfl hc
  | _ => exact (congrArg State.crcExp h :)

theorem Writes.freeCtr (h : Writes i s t) (hc : i ≠ .clr) : t.freeCtr = s.freeCtr := by
  cases i with
  | clr => exact absurd rfl hc
  | extract m => exact (congrArg State.freeCtr h.1 :)
  | gateYes => exact (congrArg State.freeCtr h.1 :)
  | _ => exact (congrArg State.freeCtr h :)

/-! ### Commands other than EXTRACT, EMBED, GATE_YES and CLR -/

section
variable (h : Writes i s t) (hx : ∀ m, i ≠ .extract m) (he : ∀ m, i ≠ .embed m) (hy : i ≠ .gateYes) (hc : i ≠ .clr)
include h hx he hy hc

theorem Writes.cursor : t.bitpos = s.bitpos ∧ t.flen = s.flen ∧ t.rvalid = s.rvalid := by
  cases i with
  | extract m => exact absurd rfl (hx m)
  | embed m => exact absurd rfl (he m)
  | gateYes => exact absurd rfl hy
  | clr => exact absurd rfl hc
  | _ => exact ⟨(congrArg State.bitpos h :), (congrArg State.flen h :), (congrArg State.rvalid h :)⟩

theorem Writes.crcok (hk : i ≠ .crcChk) : t.crcok = s.crcok := by
  cases i with
  | extract m => exact absurd rfl (hx m)
  | embed m => exact absurd rfl (he m)
  | gateYes => exact absurd rfl hy
  | clr => exact absurd rfl hc
  | crcChk => exact absurd rfl hk
  | _ => exact (congrArg State.crcok h :)

theorem Writes.trip (hr : i ≠ .muxRd) : t.trip = s.trip := by
  cases i with
  | extract m => exact absurd rfl (hx m)
  | embed m => exact absurd rfl (he m)
  | gateYes => exact absurd rfl hy
  | clr => exact absurd rfl hc
  | muxRd => exact absurd rfl hr
  | _ => exact (congrArg State.trip h :)

theorem Writes.crcAcc (hi : i ≠ .crcInit) (hb : ∀ b, i ≠ .crcByte b) (hf : i ≠ .crcBuf) : t.crcAcc = s.crcAcc := by
  cases i with
  | extract m => exact absurd rfl (hx m)
  | embed m => exact absurd rfl (he m)
  | gateYes => exact absurd rfl hy
  | clr => exact absurd rfl hc
  | crcInit => exact absurd rfl hi
  | crcByte b => exact absurd rfl (hb b)
  | crcBuf => exact absurd rfl hf
  | _ => exact (congrArg State.crcAcc h :)

theorem Writes.coordinate (hn : i ≠ .seqNext) : t.seqX = s.seqX ∧ t.seqY = s.seqY := by
  cases i with
  | extract m => exact absurd rfl (hx m)
  | embed m => exact absurd rfl (he m)
  | gateYes => exact absurd rfl hy
  | clr => exact absurd rfl hc
  | seqNext => exact absurd rfl hn
  | _ => exact ⟨(congrArg State.seqX h :), (congrArg State.seqY h :)⟩

theorem Writes.sequencer (hn : i ≠ .seqNext) (hi : ∀ m, i ≠ .seqInit m) : t.sequencer = s.sequencer := by
  cases i with
  | extract m => exact absurd rfl (hx m)
  | embed m => exact absurd rfl (he m)
  | gateYes => exact absurd rfl hy
  | clr => exact absurd rfl hc
  | seqNext => exact absurd rfl hn
  | seqInit m => exact absurd rfl (hi m)
  | _ => exact (congrArg State.sequencer h :)

end

end

/-- Settles O55, read off the write list of each command. -/
theorem commandsWriteOnlyTheirRegisters : Obligations.CommandsWriteOnlyTheirRegisters := by
  intro s t i h
  have hw := exec_writes h
  refine ⟨?_, hw.pix, hw.rbuf, hw.rbuf_above, hw.crcExp, fun hx he hy hc => ?_, hw.freeCtr⟩
  · have hh := hw.hostSide
    simp only [State.hostSide, Prod.mk.injEq, and_assoc] at hh
    exact hh
  · obtain ⟨hbit, hflen, hvalid⟩ := hw.cursor hx he hy hc
    refine ⟨hbit, hflen, hvalid, hw.crcok hx he hy hc, hw.trip hx he hy hc, hw.crcAcc hx he hy hc,
      hw.coordinate hx he hy hc, fun hn hi => ?_⟩
    have hseq := hw.sequencer hx he hy hc hn hi
    simp only [State.sequencer, Prod.mk.injEq] at hseq
    exact hseq

/-! ## The counters -/

/-- A product of two 32-bit numbers is below 2^64. -/
theorem toNat_mul_toNat_lt (a b : Word) : a.toNat * b.toNat < 18446744073709551616 :=
  calc a.toNat * b.toNat ≤ 4294967295 * 4294967295 :=
        Nat.mul_le_mul (Nat.le_of_lt_succ a.isLt) (Nat.le_of_lt_succ b.isLt)
    _ < 18446744073709551616 := by decide

/-- Settles O12: `SEQ_CNT` is at most a product of two 32-bit registers, `BITPOS` at most eight times a 32-bit register and 64. -/
theorem countersFitTheirRegisters : Obligations.CountersFitTheirRegisters := by
  intro s hs
  refine ⟨hs.count.trans_lt (toNat_mul_toNat_lt s.sw s.sh), ?_⟩
  have := hs.cursor
  have := s.flen.isLt
  omega

end Sys2Proof.Machine
end

section
/-! SUPPORT. What the host sees: the word it writes to `CMD`, the registers it reads and writes, RBUF, and the state after reset. -/

namespace Sys2Proof.Machine

/-! ## The words of the registers made of fields -/

theorem ctrlWord_of_bit (v : Word) : (0#31 ++ BitVec.ofBool (v.getLsbD 0) : Word) = v &&& 0x1#32 := by
  refine BitVec.eq_of_getLsbD_eq fun i hi => ?_
  simp only [BitVec.getLsbD_append, BitVec.getLsbD_zero, BitVec.getLsbD_and, BitVec.getLsbD_one]
  by_cases h0 : i = 0
  · simp [h0]
  · simp [h0]

/-- The bits of the `TRIP` word (rules R35, R180). -/
theorem tripWord_getLsbD (t : Trip) (i : Nat) :
    (tripWord t).getLsbD i = if i < 3 then t.v.getLsbD i else if i < 4 then false else t.p.getLsbD (i - 4) := by
  change BitVec.getLsbD (w := 25 + 3 + 1 + 3) (0#25 ++ t.p ++ 0#1 ++ t.v) i = _
  simp only [BitVec.getLsbD_append, BitVec.getLsbD_zero]
  by_cases h3 : i < 3
  · simp only [h3, if_true]
  · grind

theorem tripMask_getLsbD : ∀ i, i < 32 → (0x77#32).getLsbD i = (decide (i < 3) || (decide (4 ≤ i) && decide (i < 7))) := by
  decide

/-- Bits 2:0 and 6:4 of a word survive a write of `TRIP` (rule R35). -/
theorem tripWord_tripOfWord (v : Word) : tripWord (tripOfWord v) = v &&& 0x77#32 := by
  refine BitVec.eq_of_getLsbD_eq fun i hi => ?_
  simp only [tripWord_getLsbD, tripOfWord, BitVec.getLsbD_extractLsb', BitVec.getLsbD_and, tripMask_getLsbD i hi]
  by_cases h3 : i < 3
  · simp [h3]
  · grind

/-- The fields of a word laid out as `STATUS` is (rule R25). -/
theorem statusLayout_fields : ∀ (p : BitVec 2) (m : BitVec 1) (crcok rvalid gate err done : Bool),
    let w : Word := 0#24 ++ p ++ m ++ BitVec.ofBool crcok ++ BitVec.ofBool rvalid ++ BitVec.ofBool gate ++ BitVec.ofBool err
      ++ BitVec.ofBool done
    w.getLsbD 0 = done ∧ w.getLsbD 1 = err ∧ w.getLsbD 2 = gate ∧ w.getLsbD 3 = rvalid ∧ w.getLsbD 4 = crcok ∧
    w.getLsbD 5 = m.getLsbD 0 ∧ w.extractLsb' 6 2 = p ∧ w.extractLsb' 8 24 = 0#24 := by decide +kernel

/-- The code of a phase, by the cursor (rules R25, R42). -/
theorem phaseOf_code_toNat (i l : Nat) :
    (phaseOf i l).code.toNat = if i < 32 then 0 else if i < 32 + 8 * l then 1 else if i < 64 + 8 * l then 2 else 3 := by
  unfold phaseOf
  split
  · rfl
  · split
    · rfl
    · split <;> rfl

/-- Settles O14: the fields by their place in the word, `GATEWAIT`, `SEQMODE` and `PHASE` by the state they follow. -/
theorem statusFieldsFollowTheState : Obligations.StatusFieldsFollowTheState := by
  intro s
  obtain ⟨hdone, herr, hgate, hvalid, hcrcok, hmode, hphase, hzero⟩ :=
    statusLayout_fields s.phase.code s.seqMode s.crcok s.rvalid s.gateFlag s.err s.done
  refine ⟨hdone, herr, ?_, hvalid, hcrcok, ?_, ?_, hzero⟩
  · exact (Bool.eq_iff_iff.1 hgate).trans beq_iff_eq
  · refine (Bool.eq_iff_iff.1 hmode).trans ?_
    unfold State.seqMode
    cases s.smode <;> decide
  · exact (congrArg BitVec.toNat hphase).trans (phaseOf_code_toNat _ _)

/-! ## Commands from the host -/

/-- The word of a command decodes to the command (rules R91 to R93). -/
theorem decode_encode (i : Instr) : decode (encode i) = .ok i := by
  cases i with
  | crcByte b =>
    revert b
    decide +kernel
  | seqInit m => cases m <;> decide
  | embed m => cases m <;> decide
  | extract m => cases m <;> decide
  | _ => decide

theorem tableWord_toNat (w : Word) : tableWord 32 w.toNat = w := by
  rw [tableWord, Nat.mod_eq_of_lt w.isLt, BitVec.ofNat_toNat, BitVec.setWidth_eq]

/-- A step that takes a write of a command's word to `CMD` performs the command (rules R24, R72, R96). -/
theorem step_of_command {s : State} {w : Word} {rest : List HostTxn} {i : Instr}
    (hs : s.inbox = .csrWrite .word 0x00 w :: rest) (hw : decode w = .ok i) :
    step s = exec i { s with inbox := rest, answer := .performed } := by
  rw [step_of_inbox hs, performTxn_cmd, startCommand, hw]
  rfl

/-- Settles O5. -/
theorem stepRunsTheDecodedCommand : Obligations.StepRunsTheDecodedCommand := by
  refine ⟨fun s w rest i hs hw => step_of_command hs hw, fun s i _ => ?_, fun s hs => ?_⟩
  · refine step_of_command (s := s.withFetchWord 32 (encode i).toNat) rfl ?_
    rw [tableWord_toNat, decode_encode]
  · simp only [step, hostStep, hs]

/-! ## Register reads and writes -/

/-- Settles O57: an aligned word read reaches its register and answers, and answering is all it does. -/
theorem csrReadAnswersTheRegister : Obligations.CsrReadAnswersTheRegister := by
  intro s r rest hs
  rw [step_of_inbox hs]
  simp only [performTxn, csrTarget_word, csrAt_offset]
  rfl

section
variable {r : Csr} {v : Word} {s t : State}

/-- A write that finds the block idle and a register that takes it is performed (rules R23, R69). -/
theorem csrWriteTo_of_idle (hc : r ≠ .cmd) (hr : s.run = .idle) (h : writeCsr r v s = some t) :
    csrWriteTo r v s = .next (respond .performed t) := by
  have hm : hostMayWrite s = true := by rw [hostMayWrite, hr]; rfl
  cases r with
  | cmd => exact absurd rfl hc
  | _ => simp only [csrWriteTo, hm, h, if_true]

theorem writeCsr_isSome : (writeCsr r v s).isSome = true ↔
    r ∈ [Csr.ctrl, .width, .height, .plen, .gateThr, .seedLo, .seedHi, .crcExp, .seqX, .seqY, .trip] := by
  cases r <;> simp [writeCsr]

theorem readCsr_writeCsr_same (h : writeCsr r v s = some t) :
    readCsr t r = if r = .ctrl then v &&& 0x1#32 else if r = .trip then v &&& 0x77#32 else v := by
  cases r with
  | ctrl => cases h; exact ctrlWord_of_bit v
  | trip => cases h; exact tripWord_tripOfWord v
  | _ => cases h <;> rfl

/-- Every other register is made of other fields. -/
theorem readCsr_writeCsr_other {r' : Csr} (h : writeCsr r v s = some t) (hne : r' ≠ r) : readCsr t r' = readCsr s r' := by
  cases r <;> cases h <;> cases r' <;> simp at hne <;> rfl

theorem writeCsr_keeps (h : writeCsr r v s = some t) :
    t.run = s.run ∧ t.sw = s.sw ∧ t.sh = s.sh ∧ t.smode = s.smode ∧ t.prngS = s.prngS ∧ t.used = s.used ∧
      t.pix = s.pix ∧ t.pbuf = s.pbuf ∧ t.rbuf = s.rbuf ∧ t.cfg = s.cfg ∧ t.inbox = s.inbox := by
  cases r <;> cases h <;> exact ⟨rfl, rfl, rfl, rfl, rfl, rfl, rfl, rfl, rfl, rfl, rfl⟩

theorem readCsr_respond (a : HostAnswer) (s : State) (r : Csr) : readCsr (respond a s) r = readCsr s r := by
  cases r <;> rfl

end

/-- Settles O58: the write reaches its register in `IDLE`, and no other register is made of the field it changes. -/
theorem csrWriteIsReadBackAndTouchesNothingElse : Obligations.CsrWriteIsReadBackAndTouchesNothingElse := by
  intro s r v rest hr hs hw
  obtain ⟨t, ht⟩ := Option.isSome_iff_exists.1 ((writeCsr_isSome (v := v) (s := { s with inbox := rest })).2 hw)
  obtain ⟨hrun, hsw, hsh, hsm, hps, hus, hpx, hpb, hrb, hcf, hin⟩ := writeCsr_keeps ht
  have hc : r ≠ .cmd := by rintro rfl; simp at hw
  refine ⟨respond .performed t, ?_, rfl, hin, ?_, fun r' hne => ?_, hrun, hsw, hsh, hsm, hps, hus, hpx, hpb, hrb, hcf⟩
  · rw [step_of_inbox hs]
    simp only [performTxn, csrTarget_word, csrAt_offset]
    exact csrWriteTo_of_idle hc hr ht
  · rw [readCsr_respond]
    exact readCsr_writeCsr_same ht
  · rw [readCsr_respond, readCsr_writeCsr_other ht hne]
    cases r' <;> rfl

/-! ## RBUF -/

theorem readCsr_rlen (s : State) : readCsr s .rlen = if s.rvalid then s.flen else 0x00000000#32 := rfl

/-- Below `RLEN` is `RVALID = 1` and below `FLEN`, which the invariant keeps within RBUF (rules R64, R73). -/
theorem hostReadRbuf_of_inv {s : State} (hs : s.Inv) (j : Nat) : hostReadRbuf j s =
    if j < (readCsr s .rlen).toNat then respond (.byte (s.rbuf.read j)) s else respond .busError s := by
  rw [readCsr_rlen]
  by_cases hv : s.rvalid = true
  · obtain ⟨-, -, hfit⟩ := hs.valid hv
    rw [if_pos hv]
    split
    · rename_i hj
      rw [hostReadRbuf_of_ok hv hj, hostRead_of_lt (sp := .rbuf) (Nat.lt_of_lt_of_le hj hfit), mem_rbuf]
    · rename_i hj
      exact hostReadRbuf_of_not (.inr (Nat.le_of_not_lt hj))
  · rw [if_neg hv, if_neg (show ¬ j < (0#32).toNat from Nat.not_lt_zero j)]
    exact hostReadRbuf_of_not (.inl (Bool.eq_false_iff.2 hv))

/-- Settles O59. -/
theorem rbufIsReadableOnlyBelowRlen : Obligations.RbufIsReadableOnlyBelowRlen := by
  intro s j rest hs hin
  have hstep : step s = .next (hostReadRbuf j { s with inbox := rest }) := step_of_inbox hin
  rw [hstep, hostReadRbuf_of_inv (hs.taken rest)]
  exact ⟨fun hj => congrArg Host.Outcome.next (if_pos hj), fun hj => congrArg Host.Outcome.next (if_neg (Nat.not_lt.2 hj))⟩

/-! ## Reset -/

/-- The launch state is in the middle of no command, and nothing has been requested, pulled or given. -/
theorem launch_running {c : Config} {pix pbuf rbuf : Memory} (p : Nat) (h : MemOk c pix pbuf rbuf) :
    (State.launch c pix pbuf rbuf p).Running :=
  ⟨h, ⟨Nat.zero_le _, Nat.zero_le _, fun _ => ⟨rfl, List.nodup_nil, by simp [State.launch]⟩, fun _ => rfl⟩,
    ⟨rfl, rfl, rfl, rfl⟩, fun hv => by simp [State.launch] at hv, Nat.zero_le _⟩

/-- Settles O10. -/
theorem invariantHoldsAfterReset : Obligations.InvariantHoldsAfterReset :=
  fun _ _ _ _ p hc hp hb hr hpb hbb hrb => (launch_running p ⟨hc, hp, hb, hr, hpb, hbb, hrb⟩).inv

/-- Settles O9: the seed registers hold the first eight bytes of the digest of the empty string. -/
theorem resetSeedIsTheSeedOfTheEmptyKey : Obligations.ResetSeedIsTheSeedOfTheEmptyKey := by
  have hempty : deriveSeed none = 0xE3B0C442#32 ++ 0x98FC1C14#32 := by decide +kernel
  exact ⟨fun c pix pbuf rbuf p => hempty.symm, rfl, by decide +kernel⟩

theorem launch_words :
    (0#24 ++ Phase.awaitingLength.code ++ Mode.rng.bit ++ BitVec.ofBool false ++ BitVec.ofBool false ++ BitVec.ofBool false
      ++ BitVec.ofBool false ++ BitVec.ofBool false : Word) = 0#32 ∧
    (0#24 ++ 0x00#8 : Word) = 0#32 ∧ (0#31 ++ BitVec.ofBool true : Word) = 1#32 ∧ tripWord { v := 0#3, p := 0#3 } = 0#32 ∧
    0xFFFFFFFF#32 ^^^ 0xFFFFFFFF#32 = 0#32 ∧ lowHalf 0 = 0#32 ∧ highHalf 0 = 0#32 := by decide

/-- Settles O8: a field reads as the launch state has it, and the words made of fields are made of its zeros. -/
theorem resetLeavesTheTableOfValues : Obligations.ResetLeavesTheTableOfValues := by
  intro c pix pbuf rbuf p
  obtain ⟨hstatus, herrcode, hctrl, htrip, hcrc, hlow, hhigh⟩ := launch_words
  exact ⟨hstatus, herrcode, hctrl, rfl, rfl, rfl, rfl, rfl, rfl, rfl, rfl, rfl, htrip, rfl, hcrc, rfl, rfl, hlow, hhigh, hlow,
    hhigh, rfl, rfl, rfl, rfl, rfl, rfl, rfl, rfl, rfl⟩

end Sys2Proof.Machine
end

section
/-! SUPPORT. The memories as the host sees them: a read after a write (spec/20_memory.md rules R60, R70), and the refusals of the
host port, each transaction by the list of rule R73. -/

namespace Sys2Proof.Machine

/-! ## A read after a write -/

theorem mem_setMem_same (s : State) (sp : Space) (m : Memory) : (s.setMem sp m).mem sp = m := by
  cases sp <;> rfl

theorem mem_taken (s : State) (sp : Space) (rest : List HostTxn) : ({ s with inbox := rest } : State).mem sp = s.mem sp := by
  cases sp <;> rfl

theorem mem_respond (a : HostAnswer) (s : State) (sp : Space) : (respond a s).mem sp = s.mem sp := by
  cases sp <;> rfl

/-- A byte write and then a byte read of one memory, whatever transactions stand for them (rules R60, R70). -/
theorem hostRead_after_hostWrite {s : State} {sp : Space} {a b : Nat} {v : Byte} {x y : HostTxn} {rest : List HostTxn}
    (hx : ∀ s, performTxn x s = .next (hostWrite sp a v s)) (hy : ∀ s, performTxn y s = .next (hostRead sp b s))
    (hr : s.run = .idle) (hwf : (s.mem sp).wf = true) (ha : a < spaceSize s.cfg sp) (hb : b < spaceSize s.cfg sp)
    (hin : s.inbox = x :: y :: rest) :
    ∃ t u, step s = .next t ∧ t.answer = .performed ∧ step t = .next u ∧ u.inbox = rest ∧
      u.answer = .byte (if b = a then v else (s.mem sp).read b) := by
  have hwrite : step s = .next (hostWrite sp a v { s with inbox := y :: rest }) := (step_of_inbox hin).trans (hx _)
  rw [hostWrite_of_ok (by exact hr) (by exact ha), mem_taken] at hwrite
  refine ⟨_, _, hwrite, rfl, (step_of_inbox (by simp only [respond, setMem_inbox]; rfl)).trans (hy _), ?_⟩
  rw [hostRead_of_lt (by simpa [respond] using hb), mem_taken, mem_respond, mem_setMem_same, Memory.read_write hwf]
  exact ⟨rfl, rfl⟩

/-- Settles O60: the two spaces are two cases of one read after a write. -/
theorem hostReadGivesTheLatestWrite : Obligations.HostReadGivesTheLatestWrite := by
  intro s a b v rest hr
  exact ⟨fun hwf ha hb hin => hostRead_after_hostWrite (sp := .pix) (fun _ => rfl) (fun _ => rfl) hr hwf ha hb hin,
    fun hwf ha hb hin => hostRead_after_hostWrite (sp := .pbuf) (fun _ => rfl) (fun _ => rfl) hr hwf ha hb hin⟩

/-! ## Where a CSR access goes -/

/-- A CSR access reaches no register exactly where rule R67 refuses it. -/
theorem csrTarget_eq_none {wd : CsrWidth} {off : Nat} :
    csrTarget wd off = none ↔ wd ≠ .word ∨ off % 4 ≠ 0 ∨ 0x58 ≤ off := by
  by_cases hw : wd = .word
  · subst hw
    have := csrAt_isSome (off := off)
    rw [csrTarget_word, ← Option.not_isSome_iff_eq_none, this]
    simp only [ne_eq, not_true, false_or]
    omega
  · simp only [csrTarget_narrow hw, ne_eq, hw, not_false_eq_true, true_or]

theorem offset_of_csrTarget {wd : CsrWidth} {off : Nat} {r : Csr} (h : csrTarget wd off = some r) : r.offset = off := by
  cases wd with
  | word => exact offset_of_csrAt h
  | byte => cases h
  | half => cases h

theorem offset_eq_zero {r : Csr} : r.offset = 0x00 ↔ r = .cmd := by
  cases r <;> decide

theorem performTxn_csrRead_of_target {wd : CsrWidth} {off : Nat} {r : Csr} {s : State} (h : csrTarget wd off = some r) :
    performTxn (.csrRead wd off) s = .next (respond (.word (readCsr s r)) s) := by
  simp only [performTxn, h]

theorem performTxn_csrRead_of_none {wd : CsrWidth} {off : Nat} {s : State} (h : csrTarget wd off = none) :
    performTxn (.csrRead wd off) s = .next (refuseTxn s) := by
  simp only [performTxn, h]

theorem performTxn_csrWrite_of_target {wd : CsrWidth} {off : Nat} {r : Csr} {v : Word} {s : State}
    (h : csrTarget wd off = some r) : performTxn (.csrWrite wd off v) s = csrWriteTo r v s := by
  simp only [performTxn, h]

theorem performTxn_csrWrite_of_none {wd : CsrWidth} {off : Nat} {v : Word} {s : State} (h : csrTarget wd off = none) :
    performTxn (.csrWrite wd off v) s = .next (refuseTxn s) := by
  simp only [performTxn, h]

/-! ## Register writes -/

/-- The registers other than `CMD` that take no write are the read-only ones (rule R23). -/
theorem writeCsr_eq_none {r : Csr} {v : Word} {s : State} (hc : r ≠ .cmd) :
    writeCsr r v s = none ↔ r.offset = 0x04 ∨ r.offset = 0x08 ∨ (0x38 ≤ r.offset ∧ r.offset ≤ 0x54) := by
  cases r with
  | cmd => exact absurd rfl hc
  | _ => simp [writeCsr, Csr.offset]

theorem run_ne_gatewait {s : State} : s.run ≠ .gatewait ↔ s.run = .idle := by
  cases s.run <;> decide

/-- A write that reaches a register other than `CMD` is refused while suspended, and where the register is read-only. -/
theorem csrWriteTo_refused {r : Csr} {v : Word} {s : State} (hc : r ≠ .cmd)
    (h : s.run = .gatewait ∨ writeCsr r v s = none) : csrWriteTo r v s = .next (refuseTxn s) := by
  unfold csrWriteTo
  split
  · exact absurd rfl hc
  · split
    · rename_i hm
      have hn : writeCsr r v s = none := h.resolve_left (run_ne_gatewait.2 (eq_of_beq hm))
      simp only [hn]
    · rfl

/-- What the list says of a write that reaches register `r` (rules R69, R73). -/
theorem refusalListed_csrWrite {wd : CsrWidth} {off : Nat} {r : Csr} {v : Word} {s : State} (h : csrTarget wd off = some r) :
    RefusalListed (.csrWrite wd off v) s ↔ r ≠ .cmd ∧ (s.run = .gatewait ∨ writeCsr r v s = none) := by
  obtain ⟨hw, h4, hlt⟩ : ¬ wd ≠ .word ∧ ¬ off % 4 ≠ 0 ∧ ¬ 0x58 ≤ off := by
    rw [← not_or, ← not_or, ← csrTarget_eq_none, h]
    exact Option.some_ne_none r
  rw [← offset_of_csrTarget h] at h4 hlt
  simp only [RefusalListed, ← offset_of_csrTarget h, hw, h4, hlt, false_or]
  by_cases hc : r = .cmd
  · subst hc
    simp [Csr.offset]
  · simp only [writeCsr_eq_none hc, ne_eq, offset_eq_zero, hc, not_false_eq_true, true_and]
    rw [or_comm (a := s.run = .gatewait), or_assoc, or_assoc]

/-! ## Commands and memory accesses -/

/-- A command leaves the answer its start was given (log entry 1). -/
theorem startCommand_answer {w : Word} {s t : State} (h : startCommand w s = .next t) : t.answer = s.answer := by
  unfold startCommand at h
  split at h
  · exact congrArg (·.2.2.2.2) (exec_writes h).hostSide
  · cases h
    rfl

/-- A byte read below the size is not refused. -/
theorem hostRead_answer {sp : Space} {a : Nat} {s : State} (h : a < spaceSize s.cfg sp) :
    (hostRead sp a s).answer ≠ .busError := by
  rw [hostRead_of_lt h]
  exact HostAnswer.noConfusion

theorem hostWrite_answer {sp : Space} {a : Nat} {v : Byte} {s : State} (hr : s.run = .idle) (h : a < spaceSize s.cfg sp) :
    (hostWrite sp a v s).answer ≠ .busError := by
  rw [hostWrite_of_ok hr h]
  exact HostAnswer.noConfusion

theorem hostReadRbuf_of_ge {j : Nat} {s : State} (h : s.cfg.rbufSize ≤ j) : hostReadRbuf j s = refuseTxn s := by
  rw [hostReadRbuf, hostRead_of_ge (sp := .rbuf) h, ite_self]

/-! ## The list, both ways -/

/-- What the list names is refused. -/
theorem performTxn_of_listed {x : HostTxn} {s : State} (h : RefusalListed x s) : performTxn x s = .next (refuseTxn s) := by
  cases x with
  | csrRead wd off => exact performTxn_csrRead_of_none (csrTarget_eq_none.2 h)
  | csrWrite wd off v =>
    cases ht : csrTarget wd off with
    | none => exact performTxn_csrWrite_of_none ht
    | some r =>
      obtain ⟨hc, hw⟩ := (refusalListed_csrWrite ht).1 h
      exact (performTxn_csrWrite_of_target ht).trans (csrWriteTo_refused hc hw)
  | pixRead a => exact congrArg _ (hostRead_of_ge (sp := .pix) h)
  | pixWrite a v => exact congrArg _ (h.elim (fun h => hostWrite_of_ge (sp := .pix) h) hostWrite_of_gatewait)
  | pbufRead j => exact congrArg _ (hostRead_of_ge (sp := .pbuf) h)
  | pbufWrite j v => exact congrArg _ (h.elim (fun h => hostWrite_of_ge (sp := .pbuf) h) hostWrite_of_gatewait)
  | rbufRead j =>
    refine congrArg Host.Outcome.next ?_
    rcases h with hv | hj | hj
    · exact hostReadRbuf_of_not (.inl hv)
    · exact hostReadRbuf_of_not (.inr hj)
    · exact hostReadRbuf_of_ge hj
  | rbufWrite j v => rfl

/-- What the list does not name is performed. -/
theorem performTxn_of_not_listed {x : HostTxn} {s t : State} (h : ¬ RefusalListed x s) (ht : performTxn x s = .next t) :
    t.answer ≠ .busError := by
  cases x with
  | csrRead wd off =>
    obtain ⟨r, hr⟩ := Option.ne_none_iff_exists'.1 (mt csrTarget_eq_none.1 h)
    rw [performTxn_csrRead_of_target hr] at ht
    cases ht
    exact HostAnswer.noConfusion
  | csrWrite wd off v =>
    cases hr : csrTarget wd off with
    | none =>
      have hno : wd ≠ .word ∨ off % 4 ≠ 0 ∨ 0x58 ≤ off := csrTarget_eq_none.1 hr
      exact absurd (hno.imp_right (.imp_right .inl)) h
    | some r =>
      rw [refusalListed_csrWrite hr] at h
      rw [performTxn_csrWrite_of_target hr] at ht
      by_cases hc : r = .cmd
      · subst hc
        rw [startCommand_answer ht]
        exact HostAnswer.noConfusion
      · obtain ⟨hrun, hw⟩ := not_or.1 (not_and.1 h hc)
        obtain ⟨u, hu⟩ := Option.ne_none_iff_exists'.1 hw
        rw [csrWriteTo_of_idle hc (run_ne_gatewait.1 hrun) hu] at ht
        cases ht
        exact HostAnswer.noConfusion
  | pixRead a => cases ht; exact hostRead_answer (Nat.lt_of_not_le h)
  | pixWrite a v =>
    obtain ⟨ha, hrun⟩ := not_or.1 h
    cases ht
    exact hostWrite_answer (run_ne_gatewait.1 hrun) (Nat.lt_of_not_le ha)
  | pbufRead j => cases ht; exact hostRead_answer (Nat.lt_of_not_le h)
  | pbufWrite j v =>
    obtain ⟨hj, hrun⟩ := not_or.1 h
    cases ht
    exact hostWrite_answer (run_ne_gatewait.1 hrun) (Nat.lt_of_not_le hj)
  | rbufRead j =>
    obtain ⟨hv, hor⟩ := not_or.1 h
    obtain ⟨hflen, hsize⟩ := not_or.1 hor
    cases ht
    rw [hostReadRbuf_of_ok (Bool.eq_true_of_not_eq_false hv) (Nat.lt_of_not_le hflen)]
    exact hostRead_answer (Nat.lt_of_not_le hsize)
  | rbufWrite j v => exact absurd trivial h

/-- The list reads nothing of the inbox. -/
theorem refusalListed_taken {x : HostTxn} {s : State} {rest : List HostTxn} :
    RefusalListed x { s with inbox := rest } ↔ RefusalListed x s := by
  cases x <;> rfl

/-- Settles O56: the step takes the transaction, and performs or refuses it by the list. -/
theorem refusedTransactionsAreExactlyTheListed : Obligations.RefusedTransactionsAreExactlyTheListed := by
  intro s x rest hin
  rw [step_of_inbox hin, ← refusalListed_taken (rest := rest)]
  refine ⟨performTxn_of_listed, fun h t ht => performTxn_of_not_listed h ht, ?_⟩
  rintro rfl
  rfl

end Sys2Proof.Machine
end

section
/-! SUPPORT. What a command can change in PIX: bit 0 of a colour byte and nothing else (spec/20_memory.md rule R66,
spec/44_lsb_mux.md rules R176, R181). -/

namespace Sys2Proof.Machine

/-- From a canonical `m`, `n` is a canonical memory that differs from `m` in bit 0 of colour bytes at most. -/
def ColourLsbsOnly (m n : Memory) : Prop :=
  m.wf = true → n.wf = true ∧ ∀ a, n.read a >>> 1 = m.read a >>> 1 ∧ (a % 4 = 3 → n.read a = m.read a)

theorem ColourLsbsOnly.refl (m : Memory) : ColourLsbsOnly m m := fun h => ⟨h, fun _ => ⟨rfl, fun _ => rfl⟩⟩

theorem ColourLsbsOnly.of_eq {m n : Memory} (h : n = m) : ColourLsbsOnly m n := h ▸ .refl m

theorem ColourLsbsOnly.trans {m n o : Memory} (h1 : ColourLsbsOnly m n) (h2 : ColourLsbsOnly n o) : ColourLsbsOnly m o := by
  intro hm
  obtain ⟨hn, hmn⟩ := h1 hm
  obtain ⟨ho, hno⟩ := h2 hn
  exact ⟨ho, fun a => ⟨(hno a).1.trans (hmn a).1, fun ha => ((hno a).2 ha).trans ((hmn a).2 ha)⟩⟩

/-- One slot replaces bit 0 of the byte of its channel (rule R176). -/
theorem slotPix_colour {t : Trip} {a k : Nat} {m : Memory} (ha : a % 4 ≠ 3) : ColourLsbsOnly m (slotPix t a k m) := by
  intro hm
  refine ⟨slotPix_wf hm, fun b => ?_⟩
  by_cases hb : b = a
  · subst hb
    refine ⟨?_, fun h => absurd h ha⟩
    rw [slotPix_same hm]
    split
    · rfl
    · exact setLsb_high _ _
  · rw [slotPix_other fun _ => hb]
    exact ⟨rfl, fun _ => rfl⟩

/-- `mux_wr` names channels 0, 1, 2 of a pixel, and an alpha byte is channel 3 (rules R62, R176). -/
theorem muxPix_colour (s : State) (x y : Nat) : ColourLsbsOnly s.pix (muxPix s x y) := by
  have channel : ∀ k, k < 3 → s.pixAddr x y k % 4 ≠ 3 := fun k hk => by
    rw [State.pixAddr, pixAddr_mod (by omega)]
    omega
  exact ((slotPix_colour (channel 0 (by omega))).trans (slotPix_colour (channel 1 (by omega)))).trans
    (slotPix_colour (channel 2 (by omega)))

theorem muxWrBody_colour (s : State) : (muxWrBody s).All fun t => ColourLsbsOnly s.pix t.pix :=
  Res.Ends.all (muxWrBody_ends (.refl _) fun _ => muxPix_colour s _ _)

theorem tripletWritten_colour (s : State) (xy : Coord) (tr : Trip) (b : Nat) :
    ColourLsbsOnly s.pix (s.tripletWritten xy tr b).pix := muxPix_colour { s with trip := tr } xy.1 xy.2

/-- The triplet loop of EMBED writes pixels of the latched image only (rule R190 steps 4 to 7). -/
theorem embedLoop_colour (payload : List Byte) (c : Word) (r n k : Nat) {s : State} (h : s.Latched) :
    (embedLoop payload c r n k s).All fun t => ColourLsbsOnly s.pix t.pix := by
  induction n generalizing k s with
  | zero => exact .refl _
  | succ n ih =>
    rcases seqNext_cases s with ⟨xy, t, hn, he⟩ | ⟨-, hn⟩ | ⟨-, -, hn⟩
    · obtain ⟨ht, hx, hy⟩ := he.latched h
      have hpix : t.pix = s.pix := by rw [he.rest]
      rw [embedLoop_succ hn ht hx hy, ← hpix]
      exact (ih (k + 1) (s := t.tripletWritten xy _ _) ht).mono fun u hu => (tripletWritten_colour t xy _ _).trans hu
    · rw [embedLoop, hn]
      exact .refl _
    · rw [embedLoop, hn]
      trivial

theorem embedFrame_colour {m : Mode} {payload : List Byte} {s : State} (hd : s.DimsOk) :
    (embedFrame m payload s).All fun t => ColourLsbsOnly s.pix t.pix := by
  unfold embedFrame
  split
  · exact .refl _
  · exact embedLoop_colour _ _ _ _ _ (latched_seqInit m hd)

theorem embedBody_colour (m : Mode) (s : State) : (embedBody m s).All fun t => ColourLsbsOnly s.pix t.pix := by
  unfold embedBody
  rcases checkDims_cases (macroPrologue s) with ⟨hd, hc⟩ | ⟨-, hc⟩ <;> rw [hc]
  · rw [andThen_ok]
    split
    · exact .refl _
    · rename_i hp
      rw [foldPbuf_of_le (by simpa using hp), andThen_ok]
      exact embedFrame_colour (s := { macroPrologue s with flen := s.plen, crcAcc := _ }) hd
  · exact .refl _

/-- A command whose body does so to PIX does so as a whole: the prologue, the epilogue and error entry write no memory. -/
theorem runCommand_colour {i : Instr} {body : State → Res Unit} {s t : State} (h : runCommand i body s = .next t)
    (hb : ∀ s, (body s).All fun t => ColourLsbsOnly s.pix t.pix) : ColourLsbsOnly s.pix t.pix :=
  runCommand_sat (q := fun t => ColourLsbsOnly s.pix t.pix) h (fun _ => .refl _) (fun _ => (hb (prologue s)).sat)
    (fun _ hu => hu) (fun _ _ hu => hu) fun _ hu => hu

/-- Only MUX_WR and EMBED write PIX, and both through `mux_wr` (rule R181). -/
theorem exec_colour {i : Instr} {s t : State} (h : exec i s = .next t) : ColourLsbsOnly s.pix t.pix := by
  by_cases hw : i = .muxWr
  · subst hw
    exact runCommand_colour h muxWrBody_colour
  by_cases he : ∃ m, i = .embed m
  · obtain ⟨m, rfl⟩ := he
    exact runCommand_colour h (embedBody_colour m)
  · exact .of_eq ((exec_writes h).pix hw (not_exists.1 he))

/-- Settles O39. -/
theorem commandsChangeOnlyColourLsbs : Obligations.CommandsChangeOnlyColourLsbs :=
  fun _ _ _ hw h => (exec_colour h hw).2

end Sys2Proof.Machine
end

section
/-! SUPPORT. Where a command stops the machine: every access of a command is inside its memory (spec/20_memory.md rule R62), and
the redraw loop of the Random traversal is the one thing that may not end (spec/43_sequencer.md rule R168). -/

namespace Sys2Proof.Machine

/-! ## Results that stop -/

section
variable {α β : Type} {P Q : Prop}

/-- The piece stops the machine by the fault `hang` only, and only if `P`. -/
def Res.HangsOnlyIf (r : Res α) (P : Prop) : Prop := ∀ f, r = .stuck f → f = .hang ∧ P

@[simp] theorem hangsOnlyIf_ok (a : α) (s : State) : (Res.ok a s).HangsOnlyIf P := fun _ h => nomatch h
@[simp] theorem hangsOnlyIf_raised (e : CmdError) (s : State) : (Res.raised e s : Res α).HangsOnlyIf P := fun _ h => nomatch h
@[simp] theorem hangsOnlyIf_suspended (s : State) : (Res.suspended s : Res α).HangsOnlyIf P := fun _ h => nomatch h
@[simp] theorem hangsOnlyIf_stuck (f : Fault) : (Res.stuck f : Res α).HangsOnlyIf P ↔ f = .hang ∧ P := by
  simp [Res.HangsOnlyIf]

theorem Res.HangsOnlyIf.mono {r : Res α} (h : r.HangsOnlyIf P) (hpq : P → Q) : r.HangsOnlyIf Q :=
  fun f hf => (h f hf).imp_right hpq

/-- The rule for a sequence: the second part starts in a state the first part leaves. -/
theorem Res.HangsOnlyIf.andThen {p : State → Prop} {r : Res α} {f : α → State → Res β} (h : r.HangsOnlyIf P) (hp : r.All p)
    (hf : ∀ a s, p s → (f a s).HangsOnlyIf P) : (r.andThen f).HangsOnlyIf P := by
  cases r with
  | ok a s => exact hf a s hp
  | raised e s => simp
  | suspended s => simp
  | stuck x => simpa using h

end

/-- A command ends in a next state, but where its body hangs (rules R10, R227). -/
theorem runCommand_hangsOnlyIf {i : Instr} {body : State → Res Unit} {s : State} {P : Prop}
    (hb : accepted i s.run = true → (body (prologue s)).HangsOnlyIf P) :
    (∃ t, runCommand i body s = .next t) ∨ (runCommand i body s = .fault .hang ∧ P) := by
  cases ha : accepted i s.run with
  | false => exact .inl ⟨_, runCommand_of_not ha⟩
  | true =>
    rw [runCommand_of_accepted ha]
    cases hr : body (prologue s) with
    | ok u t => exact .inl ⟨_, rfl⟩
    | raised e t => exact .inl ⟨_, rfl⟩
    | suspended t => exact .inl ⟨_, rfl⟩
    | stuck f =>
      obtain ⟨rfl, hP⟩ := hb ha f hr
      exact .inr ⟨rfl, hP⟩

/-! ## The unit commands -/

theorem seqNext_hangsOnlyIf (s : State) : (seqNext s).HangsOnlyIf (s.smode = .rng) := by
  rcases seqNext_cases s with ⟨xy, t, h, -⟩ | ⟨-, h⟩ | ⟨hm, -, h⟩ <;> rw [h]
  · simp
  · simp
  · simpa using hm

theorem seqNextBody_hangsOnlyIf (s : State) : (seqNextBody s).HangsOnlyIf (s.smode = .rng) :=
  (seqNext_hangsOnlyIf s).andThen (seqNext_pulled s) fun _ _ _ => hangsOnlyIf_ok _ _

section
variable {P : Prop}

/-- CRC_BUF reads below `PLEN`, which it has checked against the size of PBUF (rule R129). -/
theorem crcBufBody_hangsOnlyIf (s : State) : (crcBufBody s).HangsOnlyIf P := by
  unfold crcBufBody
  split
  · simp
  · rw [foldPbuf_of_le (by omega)]
    simp

theorem crcChkBody_hangsOnlyIf (s : State) : (crcChkBody s).HangsOnlyIf P := by
  unfold crcChkBody
  split <;> simp

theorem seqInitBody_hangsOnlyIf (m : Mode) (s : State) : (seqInitBody m s).HangsOnlyIf P := by
  unfold seqInitBody
  rcases checkDims_cases s with ⟨-, hc⟩ | ⟨-, hc⟩ <;> simp [hc]

/-- MUX_WR and MUX_RD reach a pixel of an image that fits PIX, or none (rule R182). -/
theorem muxWrBody_hangsOnlyIf (s : State) : (muxWrBody s).HangsOnlyIf P := by
  unfold muxWrBody
  rcases checkXy_cases s with ⟨⟨hm, hx, hy⟩, hc⟩ | ⟨-, hc⟩ <;> rw [hc]
  · rw [andThen_ok, muxWr_ok hm hx hy]
    simp
  · simp

theorem muxRdBody_hangsOnlyIf (s : State) : (muxRdBody s).HangsOnlyIf P := by
  unfold muxRdBody
  rcases checkXy_cases s with ⟨⟨hm, hx, hy⟩, hc⟩ | ⟨-, hc⟩ <;> rw [hc]
  · rw [andThen_ok, muxRd_ok hm hx hy]
    simp
  · simp

end

/-! ## The traversal of EMBED and EXTRACT -/

/-- The sequencer is in mode `m`, latched on the image of the size registers, which fits PIX. -/
structure State.Traverses (m : Mode) (s : State) : Prop where
  smode : s.smode = m
  latched : s.Latched

theorem traverses_seqInit {s : State} (m : Mode) (h : s.DimsOk) : (seqInit m s).Traverses m := ⟨rfl, latched_seqInit m h⟩

section
variable {m : Mode} {s t : State}

theorem State.Traverses.tailed (h : s.Traverses m) (ht : Tailed s t) : t.Traverses m := by
  rw [ht]
  exact ⟨h.smode, h.latched⟩

theorem State.Traverses.emitted {xy : Coord} (h : s.Traverses m) (he : Emitted xy s t) : t.Traverses m := by
  refine ⟨?_, (he.latched h.latched).1⟩
  rw [he.rest]
  exact h.smode

/-- A pull reads a pixel of the traversal's image, which fits PIX (rule R200). -/
theorem State.Traverses.pullBit_hangsOnlyIf (h : s.Traverses m) : (pullBit s).HangsOnlyIf (m = .rng) := by
  by_cases hb : s.bitpos % 3 = 0
  · rcases seqNext_cases s with ⟨xy, t, hn, -⟩ | ⟨hc, -⟩ | ⟨hm, -, hn⟩
    · obtain ⟨hsw, hsh, hf⟩ := h.latched
      rw [pullBit_fresh hb hn hsw hsh hf]
      simp
    · rw [pullBit_exhausted hb hc]
      simp
    · rw [pullBit, pullPixel, if_pos hb, hn]
      simp [← h.smode, hm]
  · rw [pullBit_held hb]
    simp

theorem State.Traverses.pullBits_hangsOnlyIf (n v : Nat) (h : s.Traverses m) : (pullBits n v s).HangsOnlyIf (m = .rng) := by
  induction n generalizing v s with
  | zero => exact hangsOnlyIf_ok _ _
  | succ n ih => exact h.pullBit_hangsOnlyIf.andThen (pullBit_pulled s) fun _ _ ht => ih _ (h.tailed ht.tailed)

theorem State.Traverses.pullField_hangsOnlyIf (n : Nat) (h : s.Traverses m) : (pullField n s).HangsOnlyIf (m = .rng) :=
  h.pullBits_hangsOnlyIf n 0

/-- The payload loop stores bytes of RBUF below its size (rule R203 step 5). -/
theorem State.Traverses.extractPayload_hangsOnlyIf (n j : Nat) (h : s.Traverses m) (hfit : j + n ≤ s.cfg.rbufSize) :
    (extractPayload n j s).HangsOnlyIf (m = .rng) := by
  induction n generalizing j s with
  | zero => exact hangsOnlyIf_ok _ _
  | succ n ih =>
    rw [extractPayload_succ]
    refine (h.pullField_hangsOnlyIf 8).andThen (pullField_pulled 8 s) fun v t ht => ?_
    have hcfg : t.cfg = s.cfg := by rw [ht]
    rw [if_pos (by rw [hcfg]; omega)]
    refine ih (j + 1) ((h.tailed ht.tailed).tailed rfl) ?_
    change j + 1 + n ≤ t.cfg.rbufSize
    rw [hcfg]
    omega

theorem extractVerify_hangsOnlyIf {P : Prop} (s : State) : (extractVerify s).HangsOnlyIf P := by
  unfold extractVerify
  split <;> simp

/-- The tail checks `FLEN` against the size of RBUF before it stores anything (rule R203). -/
theorem State.Traverses.extractTail_hangsOnlyIf (h : s.Traverses m) : (extractTail s).HangsOnlyIf (m = .rng) := by
  unfold extractTail
  split
  · simp
  · refine (h.extractPayload_hangsOnlyIf _ 0 (by omega)).andThen (extractPayload_tailed _ 0 s) fun _ t ht => ?_
    exact ((h.tailed ht).pullField_hangsOnlyIf 32).andThen (pullField_pulled 32 t) fun v u _ => extractVerify_hangsOnlyIf _

theorem State.Traverses.extractGate_hangsOnlyIf (h : s.Traverses m) : (extractGate s).HangsOnlyIf (m = .rng) := by
  unfold extractGate
  split
  · simp
  · exact h.extractTail_hangsOnlyIf

/-- The triplet loop writes pixels of the traversal's image (rule R190 steps 4 to 7). -/
theorem State.Traverses.embedLoop_hangsOnlyIf (payload : List Byte) (c : Word) (r n k : Nat) (h : s.Traverses m) :
    (embedLoop payload c r n k s).HangsOnlyIf (m = .rng) := by
  induction n generalizing k s with
  | zero => exact hangsOnlyIf_ok _ _
  | succ n ih =>
    rcases seqNext_cases s with ⟨xy, t, hn, he⟩ | ⟨-, hn⟩ | ⟨hm, -, hn⟩
    · obtain ⟨ht, hx, hy⟩ := he.latched h.latched
      rw [embedLoop_succ hn ht hx hy]
      exact ih (k + 1) ⟨(h.emitted he).smode, ht⟩
    · rw [embedLoop, hn]
      simp
    · rw [embedLoop, hn]
      simp [← h.smode, hm]

end

/-! ## The bodies of the controller's commands -/

theorem embedFrame_hangsOnlyIf (m : Mode) (payload : List Byte) {s : State} (hd : s.DimsOk) :
    (embedFrame m payload s).HangsOnlyIf (m = .rng) := by
  unfold embedFrame
  split
  · simp
  · exact (traverses_seqInit m hd).embedLoop_hangsOnlyIf _ _ _ _ _

theorem embedBody_hangsOnlyIf (m : Mode) (s : State) : (embedBody m s).HangsOnlyIf (m = .rng) := by
  unfold embedBody
  rcases checkDims_cases (macroPrologue s) with ⟨hd, hc⟩ | ⟨-, hc⟩ <;> rw [hc]
  · rw [andThen_ok]
    split
    · simp
    · rename_i hp
      rw [foldPbuf_of_le (by simpa using hp), andThen_ok]
      exact embedFrame_hangsOnlyIf m _ (s := { macroPrologue s with flen := s.plen, crcAcc := _ }) hd
  · simp

theorem extractBody_hangsOnlyIf (m : Mode) (s : State) : (extractBody m s).HangsOnlyIf (m = .rng) := by
  unfold extractBody
  rcases checkDims_cases (macroPrologue s) with ⟨hd, hc⟩ | ⟨-, hc⟩ <;> rw [hc]
  · have h := traverses_seqInit m hd
    refine (h.pullField_hangsOnlyIf 32).andThen (pullField_pulled 32 _) fun l t ht => ?_
    obtain ⟨hm, hl⟩ := h.tailed ht.tailed
    exact State.Traverses.extractGate_hangsOnlyIf ⟨hm, hl⟩
  · simp

/-- While an EXTRACT is suspended the sequencer stays latched on its image (rules R62, R69). -/
theorem State.Inv.latched {s : State} (h : s.Inv) (hr : s.run = .gatewait) : s.Latched := by
  obtain ⟨hsw, hsh⟩ := h.gate_latch hr
  have hfit := h.latch_fits
  rw [hsw, hsh] at hfit
  exact ⟨hsw, hsh, hfit⟩

/-! ## Every command -/

/-- The commands that draw from the Random traversal (rule R168). -/
def DrawsAtRandom (i : Instr) (s : State) : Prop :=
  i = .embed .rng ∨ i = .extract .rng ∨ ((i = .seqNext ∨ i = .gateYes) ∧ s.smode = .rng)

theorem commandBody_hangsOnlyIf {i : Instr} {s : State} (hs : s.Inv) (ha : accepted i s.run = true) :
    (commandBody i (prologue s)).HangsOnlyIf (DrawsAtRandom i s) := by
  cases i with
  | nop => exact hangsOnlyIf_ok _ _
  | clr => exact hangsOnlyIf_ok _ _
  | crcInit => exact hangsOnlyIf_ok _ _
  | crcByte b => exact hangsOnlyIf_ok _ _
  | crcBuf => exact crcBufBody_hangsOnlyIf _
  | crcChk => exact crcChkBody_hangsOnlyIf _
  | seqInit m => exact seqInitBody_hangsOnlyIf m _
  | seqNext => exact (seqNextBody_hangsOnlyIf _).mono fun hm => .inr (.inr ⟨.inl rfl, hm⟩)
  | muxWr => exact muxWrBody_hangsOnlyIf _
  | muxRd => exact muxRdBody_hangsOnlyIf _
  | embed m => exact (embedBody_hangsOnlyIf m _).mono fun hm => .inl (congrArg _ hm)
  | extract m => exact (extractBody_hangsOnlyIf m _).mono fun hm => .inr (.inl (congrArg _ hm))
  | gateYes =>
    have h : State.Traverses s.smode { prologue s with run := .idle } := ⟨rfl, hs.latched (eq_of_beq ha)⟩
    exact h.extractTail_hangsOnlyIf.mono fun hm => .inr (.inr ⟨.inr rfl, hm⟩)
  | gateNo => exact hangsOnlyIf_raised _ _

/-- Settles O13: NOP and CLR have no body, and every other command stops where its body does. -/
theorem onlyTheRandomTraversalStops : Obligations.OnlyTheRandomTraversalStops := by
  intro s i hs
  by_cases hn : i = .nop
  · subst hn
    exact .inl ⟨s, rfl⟩
  by_cases hc : i = .clr
  · subst hc
    exact .inl ⟨_, rfl⟩
  rw [exec_eq_runCommand hn hc]
  exact runCommand_hangsOnlyIf fun ha => commandBody_hangsOnlyIf hs ha

end Sys2Proof.Machine
end

section
/-! SUPPORT. The encoding of commands (spec/30_encoding.md rules R91 to R94): a word is put together from its fields, so a word
that decodes is the encoder's word, and the rows of the opcode map are disjoint and match the encoder's words only. -/

namespace Sys2Proof

variable {w : Word}

/-! ## A word from its fields -/

theorem append_opcField (w : Word) : w.extractLsb' 8 24 ++ opcField w = w :=
  (BitVec.extractLsb'_append_extractLsb'_eq_extractLsb' (start₁ := 0) (len₁ := 8) rfl).trans BitVec.extractLsb'_eq_self

/-- Format Z: a word whose bits 31:8 are zero is drawn from its opcode (rule R91). -/
theorem wordZ_of_fields (hz : zeroFieldsZ w = true) : wordZ (opcField w) = w := by
  have hzero : w.extractLsb' 8 24 = 0#24 := eq_of_beq hz
  rw [wordZ, ← hzero]
  exact append_opcField w

theorem bit_modeField (w : Word) : (modeField w).bit = w.extractLsb' 8 1 := by
  unfold modeField
  generalize w.extractLsb' 8 1 = b
  revert b
  decide

/-- Format M: a word whose bits 31:9 are zero is drawn from its mode and its opcode (rule R91). -/
theorem wordM_of_fields (hz : zeroFieldsM w = true) : wordM (modeField w) (opcField w) = w := by
  have hzero : w.extractLsb' 9 23 = 0#23 := eq_of_beq hz
  have hhigh : w.extractLsb' 9 23 ++ w.extractLsb' 8 1 = w.extractLsb' 8 24 :=
    BitVec.extractLsb'_append_extractLsb'_eq_extractLsb' rfl
  rw [wordM, bit_modeField, ← hzero, hhigh]
  exact append_opcField w

/-- Format I: a word whose bits 31:24 and 15:8 are zero is drawn from its immediate and its opcode (rule R91). -/
theorem wordI_of_fields (hz : zeroFieldsI w = true) : wordI (imm8Field w) (opcField w) = w := by
  obtain ⟨htop, hmid⟩ : w.extractLsb' 24 8 = 0#8 ∧ w.extractLsb' 8 8 = 0#8 := by simpa [zeroFieldsI] using hz
  have h16 : w.extractLsb' 24 8 ++ w.extractLsb' 16 8 = w.extractLsb' 16 16 :=
    BitVec.extractLsb'_append_extractLsb'_eq_extractLsb' rfl
  have h8 : w.extractLsb' 16 16 ++ w.extractLsb' 8 8 = w.extractLsb' 8 24 :=
    BitVec.extractLsb'_append_extractLsb'_eq_extractLsb' rfl
  rw [← h16, htop, hmid] at h8
  rw [wordI, imm8Field, h8]
  exact append_opcField w

/-! ## A word that decodes -/

theorem decodeIf_eq_ok {zero : Bool} {i j : Instr} : decodeIf zero w i = .ok j ↔ zero = true ∧ i = j := by
  cases zero <;> simp [decodeIf]

section
variable {n : Nat} {j : Instr} (ho : (opcField w).toNat = n)
include ho

theorem opcField_eq_ofNat : opcField w = BitVec.ofNat 8 n := by
  rw [← ho, BitVec.ofNat_toNat, BitVec.setWidth_eq]

theorem encode_of_decodeIf_z {i : Instr} (h : decodeIf (zeroFieldsZ w) w i = .ok j)
    (he : encode i = wordZ (BitVec.ofNat 8 n)) : encode j = w := by
  obtain ⟨hz, rfl⟩ := decodeIf_eq_ok.1 h
  rw [he, ← opcField_eq_ofNat ho, wordZ_of_fields hz]

theorem encode_of_decodeIf_m {c : Mode → Instr} (h : decodeIf (zeroFieldsM w) w (c (modeField w)) = .ok j)
    (he : ∀ m, encode (c m) = wordM m (BitVec.ofNat 8 n)) : encode j = w := by
  obtain ⟨hz, rfl⟩ := decodeIf_eq_ok.1 h
  rw [he, ← opcField_eq_ofNat ho, wordM_of_fields hz]

theorem encode_of_decodeIf_i {c : Byte → Instr} (h : decodeIf (zeroFieldsI w) w (c (imm8Field w)) = .ok j)
    (he : ∀ b, encode (c b) = wordI b (BitVec.ofNat 8 n)) : encode j = w := by
  obtain ⟨hz, rfl⟩ := decodeIf_eq_ok.1 h
  rw [he, ← opcField_eq_ofNat ho, wordI_of_fields hz]

end

/-- Opcode by opcode, in the order of the decoder. -/
theorem encode_of_decode {i : Instr} (h : decode w = .ok i) : encode i = w := by
  unfold decode at h
  split at h
  next ho => exact encode_of_decodeIf_z ho h rfl
  next ho => exact encode_of_decodeIf_z ho h rfl
  next ho => exact encode_of_decodeIf_z ho h rfl
  next ho => exact encode_of_decodeIf_i ho h fun _ => rfl
  next ho => exact encode_of_decodeIf_z ho h rfl
  next ho => exact encode_of_decodeIf_z ho h rfl
  next ho => exact encode_of_decodeIf_m ho h fun _ => rfl
  next ho => exact encode_of_decodeIf_z ho h rfl
  next ho => exact encode_of_decodeIf_z ho h rfl
  next ho => exact encode_of_decodeIf_z ho h rfl
  next ho => exact encode_of_decodeIf_m ho h fun _ => rfl
  next ho => exact encode_of_decodeIf_m ho h fun _ => rfl
  next ho => exact encode_of_decodeIf_z ho h rfl
  next ho => exact encode_of_decodeIf_z ho h rfl
  next => cases h

/-! ## Rows that match a word -/

/-- A field that the mask covers is left by the mask. -/
theorem extractLsb'_and_mask {mask : Word} {start len : Nat} (hm : mask.extractLsb' start len = BitVec.allOnes len)
    (w : Word) : (w &&& mask).extractLsb' start len = w.extractLsb' start len := by
  rw [BitVec.extractLsb'_and, hm, BitVec.and_allOnes]

/-- The mask of format Z covers the whole word. -/
theorem eq_of_hits_z {s : String} {v : Word} (h : OpRow.hits ⟨s, .z, v, 0xFFFFFFFF#32⟩ w = true) : v = w := by
  have hv : w &&& BitVec.allOnes 32 = v := eq_of_beq h
  rw [← hv, BitVec.and_allOnes]

/-- The mask of format M leaves the mode bit free. -/
theorem wordM_of_hits_m {s : String} {v : Word} (h : OpRow.hits ⟨s, .m, v, 0xFFFFFEFF#32⟩ w = true)
    (hz : zeroFieldsM v = true) : wordM (modeField w) (opcField v) = w := by
  have hv : w &&& 0xFFFFFEFF#32 = v := eq_of_beq h
  have hopc : opcField v = opcField w := hv ▸ extractLsb'_and_mask (by decide) w
  have hzero : v.extractLsb' 9 23 = w.extractLsb' 9 23 := hv ▸ extractLsb'_and_mask (by decide) w
  rw [hopc, wordM_of_fields (by rwa [zeroFieldsM, ← hzero])]

/-- The mask of format I leaves the immediate free. -/
theorem wordI_of_hits_i {s : String} {v : Word} (h : OpRow.hits ⟨s, .i, v, 0xFF00FFFF#32⟩ w = true)
    (hz : zeroFieldsI v = true) : wordI (imm8Field w) (opcField v) = w := by
  have hv : w &&& 0xFF00FFFF#32 = v := eq_of_beq h
  have hopc : opcField v = opcField w := hv ▸ extractLsb'_and_mask (by decide) w
  have htop : v.extractLsb' 24 8 = w.extractLsb' 24 8 := hv ▸ extractLsb'_and_mask (by decide) w
  have hmid : v.extractLsb' 8 8 = w.extractLsb' 8 8 := hv ▸ extractLsb'_and_mask (by decide) w
  rw [hopc, wordI_of_fields (by rwa [zeroFieldsI, ← htop, ← hmid])]

/-- A word that matches a row is the word of a command, row by row of the opcode map (rule R93). -/
theorem exists_encode_of_hits {r : OpRow} (hr : r ∈ opTable) (h : r.hits w = true) : ∃ i, encode i = w := by
  simp only [opTable, List.mem_cons, List.not_mem_nil, or_false] at hr
  rcases hr with rfl | rfl | rfl | rfl | rfl | rfl | rfl | rfl | rfl | rfl | rfl | rfl | rfl | rfl
  · exact ⟨.nop, eq_of_hits_z h⟩
  · exact ⟨.clr, eq_of_hits_z h⟩
  · exact ⟨.crcInit, eq_of_hits_z h⟩
  · exact ⟨.crcByte (imm8Field w), wordI_of_hits_i h rfl⟩
  · exact ⟨.crcBuf, eq_of_hits_z h⟩
  · exact ⟨.crcChk, eq_of_hits_z h⟩
  · exact ⟨.seqInit (modeField w), wordM_of_hits_m h rfl⟩
  · exact ⟨.seqNext, eq_of_hits_z h⟩
  · exact ⟨.muxWr, eq_of_hits_z h⟩
  · exact ⟨.muxRd, eq_of_hits_z h⟩
  · exact ⟨.embed (modeField w), wordM_of_hits_m h rfl⟩
  · exact ⟨.extract (modeField w), wordM_of_hits_m h rfl⟩
  · exact ⟨.gateYes, eq_of_hits_z h⟩
  · exact ⟨.gateNo, eq_of_hits_z h⟩

theorem opcField_of_hits {r : OpRow} (hr : r ∈ opTable) (h : r.hits w = true) : opcField r.matchBits = opcField w := by
  have hmask : ∀ r ∈ opTable, r.mask.extractLsb' 0 8 = BitVec.allOnes 8 := by decide
  have hv : w &&& r.mask = r.matchBits := eq_of_beq h
  exact hv ▸ extractLsb'_and_mask (hmask r hr) w

/-- The rows are disjoint: every mask covers the opcode, and no two rows have the same one (rule R93). -/
theorem filter_hits_length_le_one (w : Word) : (opTable.filter (·.hits w)).length ≤ 1 := by
  have hdistinct : (opTable.map (opcField ·.matchBits)).Nodup := by decide
  have hsame : (opTable.filter (·.hits w)).map (opcField ·.matchBits) =
      List.replicate (opTable.filter (·.hits w)).length (opcField w) :=
    List.map_eq_replicate_iff.2 fun r hr => opcField_of_hits (List.mem_filter.1 hr).1 (List.mem_filter.1 hr).2
  rw [← List.nodup_replicate (a := opcField w), ← hsame]
  exact hdistinct.sublist (List.filter_sublist.map _)

theorem filter_hits_eq_singleton {r : OpRow} (hr : r ∈ opTable) (h : r.hits w = true) :
    opTable.filter (·.hits w) = [r] := by
  have hmem : r ∈ opTable.filter (·.hits w) := List.mem_filter.2 ⟨hr, h⟩
  obtain ⟨r', hr'⟩ := List.length_eq_one_iff.1
    (Nat.le_antisymm (filter_hits_length_le_one w) (List.length_pos_of_mem hmem))
  rw [hr'] at hmem ⊢
  rw [List.mem_singleton.1 hmem]

/-- Every command has its row, by the law of each (Sys2Proof/Laws/PerInstr.lean). -/
theorem row_statement : ∀ i : Instr, Laws.Row.Statement i
  | .nop => Laws.Row.nop
  | .clr => Laws.Row.clr
  | .crcInit => Laws.Row.crcInit
  | .crcByte b => Laws.Row.crcByte b
  | .crcBuf => Laws.Row.crcBuf
  | .crcChk => Laws.Row.crcChk
  | .seqInit m => Laws.Row.seqInit m
  | .seqNext => Laws.Row.seqNext
  | .muxWr => Laws.Row.muxWr
  | .muxRd => Laws.Row.muxRd
  | .embed m => Laws.Row.embed m
  | .extract m => Laws.Row.extract m
  | .gateYes => Laws.Row.gateYes
  | .gateNo => Laws.Row.gateNo

theorem exists_row (i : Instr) :
    ∃ r ∈ opTable, r.hits (encode i) = true ∧ r.mnemonic = i.mnemonic ∧ r.format = i.format := by
  obtain ⟨-, hany⟩ := row_statement i
  obtain ⟨r, hr, h⟩ := List.any_eq_true.1 hany
  simp only [Bool.and_eq_true, beq_iff_eq] at h
  obtain ⟨⟨hname, hformat⟩, hhits⟩ := h
  exact ⟨r, hr, hhits, hname, hformat⟩

theorem legalWord_encode (i : Instr) : legalWord (encode i) = true := by
  obtain ⟨r, hr, hhits, -⟩ := exists_row i
  exact List.any_eq_true.2 ⟨r, hr, hhits⟩

/-- The decoder refuses an illegal word (rule R94). -/
theorem decode_of_illegal (h : legalWord w = false) : ∃ e, decode w = .error e := by
  cases hd : decode w with
  | error e => exact ⟨e, rfl⟩
  | ok i =>
    rw [← encode_of_decode hd, legalWord_encode] at h
    cases h

end Sys2Proof

namespace Sys2Proof.Machine

/-! ## The encoding -/

/-- Settles O2. -/
theorem decodeOfEncodeIsTheCommand : Obligations.DecodeOfEncodeIsTheCommand := fun i _ => decode_encode i

/-- Settles O3. -/
theorem encodeOfDecodeIsTheWord : Obligations.EncodeOfDecodeIsTheWord := fun _ _ => encode_of_decode

/-- Settles O4: the row of the decoded command is the only one that matches, and a word that matches a row decodes. -/
theorem decoderFollowsTheOpcodeMap : Obligations.DecoderFollowsTheOpcodeMap := by
  refine fun w => ⟨fun i hi => ?_, fun e he => ?_⟩
  · obtain ⟨r, hr, hhits, hrow⟩ := exists_row i
    rw [encode_of_decode hi] at hhits
    exact ⟨r, filter_hits_eq_singleton hr hhits, hrow⟩
  · refine List.filter_eq_nil_iff.2 fun r hr hhits => ?_
    obtain ⟨i, rfl⟩ := exists_encode_of_hits hr hhits
    rw [decode_encode] at he
    cases he

/-- Settles O1: each word is the word of its command. -/
theorem specWordsDecode : Obligations.SpecWordsDecode :=
  ⟨decode_encode .nop, decode_encode .clr, decode_encode .crcInit, decode_encode (.crcByte 0x68#8),
    decode_encode (.crcByte 0xFF#8), decode_encode (.crcByte 0x00#8), decode_encode .crcBuf, decode_encode .crcChk,
    decode_encode (.seqInit .rng), decode_encode (.seqInit .seq), decode_encode .seqNext, decode_encode .muxWr,
    decode_encode .muxRd, decode_encode (.embed .rng), decode_encode (.embed .seq), decode_encode (.extract .rng),
    decode_encode (.extract .seq), decode_encode .gateYes, decode_encode .gateNo⟩

/-! ## Words and commands that are refused -/

/-- Settles O6. -/
theorem illegalWordChangesOnlyTheErrorState : Obligations.IllegalWordChangesOnlyTheErrorState := by
  intro s w rest hin hw
  obtain ⟨e, he⟩ := decode_of_illegal hw
  rw [step_of_inbox hin, performTxn_cmd, startCommand, he]
  rfl

theorem accepted_idle_eq_false {i : Instr} (h : i = .gateYes ∨ i = .gateNo) : accepted i .idle = false := by
  rcases h with rfl | rfl <;> rfl

theorem accepted_gatewait_eq_false {i : Instr} (hn : i ≠ .nop) (hc : i ≠ .clr) (hy : i ≠ .gateYes)
    (hno : i ≠ .gateNo) : accepted i .gatewait = false := by
  cases i with
  | nop => exact absurd rfl hn
  | clr => exact absurd rfl hc
  | gateYes => exact absurd rfl hy
  | gateNo => exact absurd rfl hno
  | _ => rfl

/-- A command that `RUN` does not accept ends in `IllegalCommand` before its prologue (rules R95, R96). -/
theorem exec_of_not_accepted {i : Instr} {s : State} (h : accepted i s.run = false) :
    exec i s = .next (raiseError .illegalCommand s) := by
  rw [exec_eq_runCommand (by rintro rfl; cases h) (by rintro rfl; cases h), runCommand_of_not h]

/-- Settles O7: neither row of rule R95 accepts the command. -/
theorem misplacedCommandEntersIllegalCommand : Obligations.MisplacedCommandEntersIllegalCommand := by
  intro s i h
  refine exec_of_not_accepted ?_
  rcases h with ⟨hr, hi⟩ | ⟨hr, hn, hc, hy, hno⟩
  · rw [hr, accepted_idle_eq_false hi]
  · rw [hr, accepted_gatewait_eq_false hn hc hy hno]

end Sys2Proof.Machine
end

section
/-! SUPPORT. The bit-stream functions read slot by slot (spec/40_bitstream.md rules R110 to R113), and the frame as such a stream
(spec/41_framer_crc.md rules R120 to R122): the bit at an index of `bits_of`, of the frame, of `batch` and of a triplet of EMBED. -/

namespace Sys2Proof.Machine

/-! ## bits_of -/

@[simp] theorem length_byteBits (b : Byte) : (byteBits b).length = 8 := rfl

theorem getElem?_byteBits (b : Byte) : ∀ k, k < 8 → (byteBits b)[k]? = some (b.getLsbD (7 - k))
  | 0, _ | 1, _ | 2, _ | 3, _ | 4, _ | 5, _ | 6, _ | 7, _ => rfl

@[simp] theorem bitsOf_nil : bitsOf [] = [] := rfl

@[simp] theorem bitsOf_cons (b : Byte) (bytes : List Byte) : bitsOf (b :: bytes) = byteBits b ++ bitsOf bytes :=
  List.flatMap_cons

/-- Law (c) of rule R113. -/
@[simp] theorem bitsOf_append (a b : List Byte) : bitsOf (a ++ b) = bitsOf a ++ bitsOf b := List.flatMap_append

@[simp] theorem length_bitsOf (bytes : List Byte) : (bitsOf bytes).length = 8 * bytes.length := by
  induction bytes with
  | nil => rfl
  | cons b bytes ih => rw [bitsOf_cons, List.length_append, length_byteBits, ih, List.length_cons]; omega

/-- Rule R110: stream index `i` is bit `7 - i mod 8` of byte `i div 8`. -/
theorem getElem?_bitsOf (bytes : List Byte) (i : Nat) (h : i < 8 * bytes.length) :
    (bitsOf bytes)[i]? = some ((bytes.getD (i / 8) 0x00#8).getLsbD (7 - i % 8)) := by
  induction bytes generalizing i with
  | nil => cases h
  | cons b bytes ih =>
    rw [bitsOf_cons]
    by_cases hi : i < 8
    · rw [List.getElem?_append_left hi, getElem?_byteBits b i hi, Nat.div_eq_of_lt hi, Nat.mod_eq_of_lt hi]
      rfl
    · obtain ⟨j, rfl⟩ := Nat.exists_eq_add_of_le' (Nat.le_of_not_lt hi)
      rw [List.getElem?_append_right (Nat.le_of_not_lt hi), length_byteBits, Nat.add_sub_cancel,
        ih j (by rw [List.length_cons] at h; omega), Nat.add_div_right j (by decide), Nat.add_mod_right]
      rfl

/-- The bytes of `BE32` are the fields of the word, high byte first (rule R65). -/
theorem getD_be32 (v : Word) : ∀ j, j < 4 → (be32 v).getD j 0x00#8 = v.extractLsb' (24 - 8 * j) 8
  | 0, _ | 1, _ | 2, _ | 3, _ => rfl

theorem length_bitsOf_be32 (v : Word) : (bitsOf (be32 v)).length = 32 := length_bitsOf _

/-- The bits of `BE32` are those of the word, bit 31 first. -/
theorem getElem?_bitsOf_be32 (v : Word) (i : Nat) (h : i < 32) : (bitsOf (be32 v))[i]? = some (v.getLsbD (31 - i)) := by
  have hbyte : i / 8 < 4 := by omega
  have hlow : 7 - i % 8 < 8 := by omega
  have hbit : 24 - 8 * (i / 8) + (7 - i % 8) = 31 - i := by omega
  rw [getElem?_bitsOf (be32 v) i h, getD_be32 v _ hbyte, BitVec.getLsbD_extractLsb', hbit, decide_eq_true hlow,
    Bool.true_and]

/-! ## bytes_of -/

/-- Eight more bits shift the accumulator by one byte and add the byte (rule R112). -/
theorem foldl_byteBits (b : Byte) (v : Nat) :
    (byteBits b).foldl (fun v b => 2 * v + b.toNat) v = 256 * v + b.toNat := by
  have hbits : ∀ b : Byte, (byteBits b).foldl (fun v b => 2 * v + b.toNat) 0 = b.toNat := by decide
  have hb := hbits b
  simp only [byteBits, List.foldl_cons, List.foldl_nil] at hb ⊢
  omega

/-- `bytes_of` of a byte stream is its big-endian value. -/
theorem bytesOf_bitsOf (bytes : List Byte) : bytesOf (bitsOf bytes) = bytes.foldl (fun v b => 256 * v + b.toNat) 0 := by
  simp only [bytesOf, bitsOf, List.foldl_flatMap, foldl_byteBits]

/-- Law (a) of rule R113. -/
theorem bytesOf_bitsOf_singleton (b : Byte) : bytesOf (bitsOf [b]) = b.toNat := by
  rw [bytesOf_bitsOf, List.foldl_cons, List.foldl_nil, Nat.mul_zero, Nat.zero_add]

/-- Law (b) of rule R113. -/
theorem bytesOf_bitsOf_be32 (v : Word) : bytesOf (bitsOf (be32 v)) = v.toNat := by
  have hv : v.toNat < 2 ^ 32 := v.isLt
  rw [bytesOf_bitsOf]
  simp only [be32, List.foldl_cons, List.foldl_nil, BitVec.extractLsb'_toNat, Nat.shiftRight_eq_div_pow]
  omega

/-! ## batch -/

theorem le_mul_ceilDiv (a : Nat) {n : Nat} (hn : 1 ≤ n) : a ≤ n * ceilDiv a n := by
  have hdiv := Nat.div_add_mod (a + n - 1) n
  have hmod := Nat.mod_lt (a + n - 1) hn
  unfold ceilDiv
  omega

/-- Group `k` of a batch, slot `j` (rule R111). -/
theorem getD_getD_batch (bits : List Bool) {n k j : Nat} (hk : k < ceilDiv bits.length n) (hj : j < n) :
    ((batch bits n).getD k []).getD j .absent = slotAt bits (n * k + j) := by
  simp [batch, List.getD_eq_getElem?_getD, hk, hj]

/-- `m` groups of `n` indices in a row are the first `n * m` indices. -/
theorem flatten_groups {α : Type} (f : Nat → α) (n m : Nat) :
    ((List.range m).map fun k => (List.range n).map fun s => f (n * k + s)).flatten = (List.range (n * m)).map f := by
  induction m with
  | zero => rfl
  | succ m ih =>
    rw [List.range_succ, List.map_append, List.flatten_append, ih, Nat.mul_succ, List.range_add, List.map_append,
      List.map_map]
    simp [Function.comp_def]

/-- The bit of a slot, or nothing where it is Absent. -/
def Slot.bit? : Slot → Option Bool
  | .bit v => some v
  | .absent => none

@[simp] theorem bit?_slotAt (bits : List Bool) (i : Nat) : (slotAt bits i).bit? = bits[i]? := by
  unfold slotAt
  cases bits[i]? <;> rfl

theorem filterMap_getElem?_range (bits : List Bool) (m : Nat) : (List.range m).filterMap (bits[·]?) = bits.take m := by
  induction m with
  | zero => rfl
  | succ m ih => rw [List.range_succ, List.filterMap_append, ih, List.take_add_one]; cases h : bits[m]? <;> simp [h]

/-- Law (d) of rule R113: the slots of a batch are those of the indices below `n * ceil_div(m, n)`, and none past the end of the
stream holds a bit. -/
theorem filterMap_bit?_flatten_batch (bits : List Bool) {n : Nat} (hn : 1 ≤ n) :
    (batch bits n).flatten.filterMap Slot.bit? = bits := by
  have hbit : Slot.bit? ∘ slotAt bits = (bits[·]?) := funext (bit?_slotAt bits)
  rw [batch, flatten_groups, List.filterMap_map, hbit, filterMap_getElem?_range,
    List.take_of_length_le (le_mul_ceilDiv _ hn)]

/-- Settles O24: the four laws of rule R113. -/
theorem bitStreamFunctionsAreInverse : Obligations.BitStreamFunctionsAreInverse :=
  ⟨bytesOf_bitsOf_singleton, bytesOf_bitsOf_be32, bitsOf_append, fun bits _ hn => filterMap_bit?_flatten_batch bits hn⟩

/-! ## The frame and its triplets -/

/-- The three fields of the frame as streams: length, payload, trailer (rule R120). -/
theorem bitsOf_frame (p : List Byte) :
    bitsOf (frame p) = bitsOf (be32 (BitVec.ofNat 32 p.length)) ++ (bitsOf p ++ bitsOf (be32 (crc32 p))) := by
  rw [frame, bitsOf_append, bitsOf_append, List.append_assoc]

/-- Rule R122. -/
theorem length_bitsOf_frame (p : List Byte) : (bitsOf (frame p)).length = 8 * (p.length + 8) := by
  rw [bitsOf_frame, List.length_append, List.length_append, length_bitsOf_be32, length_bitsOf, length_bitsOf_be32]
  omega

/-- Rule R121, field by field. -/
theorem getElem?_bitsOf_frame (p : List Byte) (i : Nat) (h : i < 8 * (p.length + 8)) :
    (bitsOf (frame p))[i]? = some (frameBit p i) := by
  rw [bitsOf_frame, frameBit, frameBitWith]
  by_cases hlen : i < 32
  · rw [List.getElem?_append_left hlen, getElem?_bitsOf_be32 _ i hlen, if_pos hlen]
  rw [List.getElem?_append_right (Nat.le_of_not_lt hlen), length_bitsOf_be32, if_neg hlen]
  by_cases hpay : i < 32 + 8 * p.length
  · have hi : i - 32 < 8 * p.length := by omega
    rw [List.getElem?_append_left (by rwa [length_bitsOf]), getElem?_bitsOf p _ hi, if_pos hpay]
  · have hi : i - 32 - 8 * p.length < 32 := by omega
    rw [List.getElem?_append_right (by rw [length_bitsOf]; omega), length_bitsOf, getElem?_bitsOf_be32 _ _ hi, if_neg hpay]

/-- The slot EMBED computes at an index is that of the frame's stream (rule R190). -/
theorem slotAt_bitsOf_frame (p : List Byte) (i : Nat) :
    slotAt (bitsOf (frame p)) i = frameSlot p (crc32 p) (8 * (p.length + 8)) i := by
  unfold slotAt frameSlot
  split_ifs with hi
  · rw [getElem?_bitsOf_frame p i hi]
    rfl
  · rw [List.getElem?_eq_none (by rw [length_bitsOf_frame]; omega)]

theorem slot_frameTrip (p : List Byte) (c : Word) (r k : Nat) :
    ∀ j, j < 3 → (frameTrip p c r k).slot j = frameSlot p c r (3 * k + j)
  | 0, _ => tripOfSlots_slot0 _ _ _
  | 1, _ => tripOfSlots_slot1 _ _ _
  | 2, _ => tripOfSlots_slot2 _ _ _

/-- Settles O26: both sides are the slot at index `3 * k + j` of the frame's stream. -/
theorem embedTripletsAreTheBatchOfTheFrame : Obligations.EmbedTripletsAreTheBatchOfTheFrame := by
  intro p k j _ hj hk
  rw [← length_bitsOf_frame] at hk
  rw [getD_getD_batch _ hk hj, slotAt_bitsOf_frame, slot_frameTrip _ _ _ _ j hj]

end Sys2Proof.Machine
end

section
/-! SUPPORT. The algebra of `crc_update` (spec/41_framer_crc.md rules R124, R125): a step is linear over xor and injective, so
replacing one byte of a message changes its CRC. Then the obligations of the frame's bits and of the commands CRC_INIT, CRC_BYTE,
CRC_BUF and CRC_CHK. -/

namespace Sys2Proof.Machine

/-! ## One step -/

/-- What a step xors into the shifted accumulator, by the bit shifted out (rule R124). -/
def crcTap (out : Bool) : Word := if out then 0xEDB88320#32 else 0x00000000#32

theorem crcTap_xor : ∀ x y : Bool, crcTap (x ^^ y) = crcTap x ^^^ crcTap y := by decide

theorem getLsbD_crcTap_31 : ∀ x : Bool, (crcTap x).getLsbD 31 = x := by decide

theorem crcStep_eq (a : Word) : crcStep a = (a >>> 1) ^^^ crcTap (a.getLsbD 0) := by
  unfold crcStep crcTap
  split
  · rfl
  · exact BitVec.xor_zero.symm

theorem crcStep_xor (a b : Word) : crcStep (a ^^^ b) = crcStep a ^^^ crcStep b := by
  rw [crcStep_eq, crcStep_eq, crcStep_eq, BitVec.getLsbD_xor, crcTap_xor, BitVec.ushiftRight_xor_distrib]
  ac_rfl

/-- The shift leaves bit 31 to the tap: it holds the bit shifted out. -/
theorem getLsbD_crcStep_31 (a : Word) : (crcStep a).getLsbD 31 = a.getLsbD 0 := by
  have hshift : (a >>> 1).getLsbD 31 = false := by
    rw [BitVec.getLsbD_ushiftRight]
    exact BitVec.getLsbD_of_ge a _ (by decide)
  rw [crcStep_eq, BitVec.getLsbD_xor, hshift, getLsbD_crcTap_31, Bool.false_xor]

/-- Bit 31 tells which tap was xored in, and without the tap the other 31 bits are left. -/
theorem crcStep_injective : Function.Injective crcStep := by
  intro a b h
  have h0 : a.getLsbD 0 = b.getLsbD 0 := by rw [← getLsbD_crcStep_31, h, getLsbD_crcStep_31]
  have hshift : a >>> 1 = b >>> 1 := by
    rwa [crcStep_eq, crcStep_eq, h0, BitVec.xor_left_inj] at h
  refine BitVec.eq_of_getLsbD_eq fun i _ => ?_
  cases i with
  | zero => exact h0
  | succ i =>
    have hi := congrArg (·.getLsbD i) hshift
    simpa only [BitVec.getLsbD_ushiftRight, Nat.add_comm 1] using hi

/-! ## Several steps -/

theorem crcSteps_eq_iterate (k : Nat) (a : Word) : crcSteps k a = crcStep^[k] a := by
  induction k generalizing a with
  | zero => rfl
  | succ k ih => exact ih (crcStep a)

theorem crcSteps_xor (k : Nat) (a b : Word) : crcSteps k (a ^^^ b) = crcSteps k a ^^^ crcSteps k b := by
  induction k generalizing a b with
  | zero => rfl
  | succ k ih => rw [crcSteps, crcStep_xor, ih, crcSteps, crcSteps]

theorem crcSteps_injective (k : Nat) : Function.Injective (crcSteps k) := by
  rw [funext (crcSteps_eq_iterate k)]
  exact crcStep_injective.iterate k

/-- Bits that are 0 are shifted out with no tap. -/
theorem crcSteps_of_low_zero {k : Nat} {a : Word} (h : ∀ i, i < k → a.getLsbD i = false) : crcSteps k a = a >>> k := by
  induction k generalizing a with
  | zero => exact (BitVec.ushiftRight_zero a).symm
  | succ k ih =>
    have hstep : crcStep a = a >>> 1 := by
      rw [crcStep_eq, h 0 (Nat.succ_pos k)]
      exact BitVec.xor_zero
    have hlow : ∀ i, i < k → (a >>> 1).getLsbD i = false := fun i hi => by
      rw [BitVec.getLsbD_ushiftRight]
      exact h (1 + i) (by omega)
    rw [crcSteps, hstep, ih hlow, ← BitVec.shiftRight_add, Nat.add_comm]

/-! ## crc_update -/

theorem getLsbD_0xFF : ∀ i, i < 32 → (0xFF#32).getLsbD i = decide (i < 8) := by decide

/-- Eight steps shift bits 31:8 down by a byte and do nothing else to them. -/
theorem crcSteps_high (acc : Word) : crcSteps 8 ((acc >>> 8) <<< 8) = acc >>> 8 := by
  rw [crcSteps_of_low_zero fun i hi => by simp [hi]]
  refine BitVec.eq_of_getLsbD_eq fun i hi => ?_
  simp only [BitVec.getLsbD_ushiftRight, BitVec.getLsbD_shiftLeft, Nat.add_sub_cancel_left]
  by_cases h24 : 8 + i < 32
  · simp [h24]
  · simp [BitVec.getLsbD_of_ge acc (8 + i) (by omega)]

/-- The low byte, where `b` is xored in, and bits 31:8 as they were. -/
theorem xor_setWidth_eq_low_xor_high (acc : Word) (b : Byte) :
    acc ^^^ b.setWidth 32 = ((acc ^^^ b.setWidth 32) &&& 0xFF#32) ^^^ ((acc >>> 8) <<< 8) := by
  refine BitVec.eq_of_getLsbD_eq fun i hi => ?_
  rw [BitVec.getLsbD_xor (x := _ &&& _), BitVec.getLsbD_and, getLsbD_0xFF i hi, BitVec.getLsbD_shiftLeft,
    BitVec.getLsbD_ushiftRight]
  by_cases h8 : i < 8
  · simp [h8]
  · have hb : b.getLsbD i = false := BitVec.getLsbD_of_ge b i (by omega)
    have hback : 8 + (i - 8) = i := by omega
    simp [h8, hb, hback, hi]

/-- Settles O22: by linearity the two parts step apart, the low byte by the table. -/
theorem crcUpdateEqualsItsTableForm : Obligations.CrcUpdateEqualsItsTableForm := by
  intro acc b
  calc crcUpdate acc b
    _ = crcSteps 8 (((acc ^^^ b.setWidth 32) &&& 0xFF#32) ^^^ ((acc >>> 8) <<< 8)) :=
      congrArg (crcSteps 8) (xor_setWidth_eq_low_xor_high acc b)
    _ = crcSteps 8 ((acc ^^^ b.setWidth 32) &&& 0xFF#32) ^^^ (acc >>> 8) := by rw [crcSteps_xor, crcSteps_high]

theorem crcUpdate_acc_injective (b : Byte) : Function.Injective (crcUpdate · b) := fun _ _ h =>
  (BitVec.xor_left_inj _).1 (crcSteps_injective 8 h)

theorem crcUpdate_byte_injective (acc : Word) : Function.Injective (crcUpdate acc) := by
  intro b c h
  have hw : b.setWidth 32 = c.setWidth 32 := (BitVec.xor_right_inj _).1 (crcSteps_injective 8 h)
  simpa using congrArg (BitVec.setWidth 8) hw

/-! ## The CRC of a message -/

theorem crcFold_append (acc : Word) (p q : List Byte) : crcFold acc (p ++ q) = crcFold (crcFold acc p) q :=
  List.foldl_append

theorem crcFold_acc_injective (p : List Byte) : Function.Injective (crcFold · p) := by
  induction p with
  | nil => exact fun _ _ h => h
  | cons b p ih => exact ih.comp (crcUpdate_acc_injective b)

/-- Given the bytes before and after it, the CRC-32 determines a byte. -/
theorem crc32_replaced_byte_injective (pre post : List Byte) :
    Function.Injective fun b : Byte => crc32 (pre ++ b :: post) := by
  intro b c h
  have hfold := (BitVec.xor_left_inj _).1 h
  rw [crcFold_append, crcFold_append, crcFold_cons, crcFold_cons] at hfold
  exact crcUpdate_byte_injective _ (crcFold_acc_injective post hfold)

/-- The message with byte `j` replaced has the same CRC-32 only where the byte is the same (rule R131). -/
theorem crc32_set_eq_iff {p : List Byte} {j : Nat} (hj : j < p.length) (b : Byte) :
    crc32 (p.set j b) = crc32 p ↔ b = p.getD j 0x00#8 := by
  have hp : p = p.take j ++ p[j] :: p.drop (j + 1) := by rw [List.getElem_cons_drop, List.take_append_drop]
  rw [List.getD_eq_getElem p _ hj, List.set_eq_take_append_cons_drop, if_pos hj]
  conv_lhs => rhs; rw [hp]
  exact (crc32_replaced_byte_injective _ _).eq_iff

theorem xor_twoPow_ne (b : Byte) {k : Nat} (hk : k < 8) : b ^^^ BitVec.twoPow 8 k ≠ b := by
  intro h
  have hbit := congrArg (·.getLsbD k) h
  simp [hk] at hbit

/-- Settles O23: flipping a bit gives another byte there. -/
theorem crcDetectsEverySingleBitChange : Obligations.CrcDetectsEverySingleBitChange := fun _ _ _ hj hk h =>
  xor_twoPow_ne _ hk ((crc32_set_eq_iff hj _).1 h)

/-! ## The bits of the frame -/

/-- Settles O25. -/
theorem frameBitsAreTheBitsOfTheFrame : Obligations.FrameBitsAreTheBitsOfTheFrame := fun p _ =>
  ⟨length_bitsOf_frame p, getElem?_bitsOf_frame p⟩

/-! ## The unit commands -/

section
variable {s : State}

/-- In IDLE an accepted command is its body on the state the prologue leaves, and the epilogue (rules R95, R96, R227). -/
theorem exec_of_idle (i : Instr) (hn : i ≠ .nop) (hc : i ≠ .clr) (ha : accepted i .idle = true) (hr : s.run = .idle) :
    exec i s = finish (commandBody i (prologue s)) := by
  rw [exec_eq_runCommand hn hc, runCommand_of_accepted (by rwa [hr])]

theorem crcBufBody_of_le (h : s.plen.toNat ≤ s.cfg.pbufSize) :
    crcBufBody s = .ok () { s with crcAcc := crcFold s.crcAcc (s.payload s.plen.toNat) } := by
  rw [crcBufBody, if_neg (Nat.not_lt.2 h), foldPbuf_of_le h, andThen_ok]

theorem crcBufBody_of_lt (h : s.cfg.pbufSize < s.plen.toNat) : crcBufBody s = .raised .bufferRange s := if_pos h

theorem crcChkBody_of_eq (h : s.crcVal = s.crcExp) : crcChkBody s = .ok () { s with crcok := true } := by
  simp [crcChkBody, compareCrc, h]

theorem crcChkBody_of_ne (h : s.crcVal ≠ s.crcExp) :
    crcChkBody s = .raised .integrityMismatch { s with crcok := false } := by
  simp [crcChkBody, compareCrc, h]

end

/-- Settles O18. -/
theorem crcInitLoadsAllOnes : Obligations.CrcInitLoadsAllOnes := by
  intro s hr
  rw [exec_of_idle .crcInit nofun nofun rfl hr]
  rfl

/-- Settles O19: the written-out fold is `crcStep` iterated eight times. -/
theorem crcByteFoldsTheImmediate : Obligations.CrcByteFoldsTheImmediate := by
  intro s b hr
  rw [exec_of_idle (.crcByte b) nofun nofun rfl hr, commandBody, finish_ok, crcUpdate, crcSteps_eq_iterate,
    List.foldl_const, List.length_range]
  rfl

/-- Settles O20: the prologue has touched neither `PLEN`, PBUF nor `CRC_ACC`. -/
theorem crcBufFoldsThePayload : Obligations.CrcBufFoldsThePayload := by
  intro s hr
  rw [exec_of_idle .crcBuf nofun nofun rfl hr, commandBody]
  refine ⟨fun h => ?_, fun h => ?_⟩
  · rw [crcBufBody_of_le (s := prologue s) h]
    rfl
  · rw [crcBufBody_of_lt (s := prologue s) h]
    rfl

/-- Settles O21: the finalised CRC is `CRC_VAL`. -/
theorem crcChkComparesTheFinalisedCrc : Obligations.CrcChkComparesTheFinalisedCrc := by
  intro s hr
  rw [exec_of_idle .crcChk nofun nofun rfl hr, commandBody]
  refine ⟨fun h => ?_, fun h => ?_⟩
  · rw [crcChkBody_of_eq (s := prologue s) h]
    rfl
  · rw [crcChkBody_of_ne (s := prologue s) h]
    rfl

end Sys2Proof.Machine
end

section
/-! SUPPORT. `REF_PRNG` (spec/42_prng_seed.md): `next64` gives distinct states distinct values, so the rejection loop of `range`
ends within its bound, and the generator has 2^64 states, so a redraw that has not ended after as many draws never ends. -/

namespace Sys2Proof.Machine

/-! ## The values of `next64` -/

/-- A xorshift to the right loses nothing: from the highest bit down, each bit is the sum of a bit of the result and a higher bit. -/
theorem xor_ushiftRight_injective {w k : Nat} (hk : 0 < k) : Function.Injective fun x : BitVec w => x ^^^ (x >>> k) := by
  intro x y h
  have hbit (i : Nat) : (x.getLsbD i ^^ x.getLsbD (k + i)) = (y.getLsbD i ^^ y.getLsbD (k + i)) := by
    simpa only [BitVec.getLsbD_xor, BitVec.getLsbD_ushiftRight] using congrArg (·.getLsbD i) h
  have hall (d i : Nat) (hd : w ≤ i + d) : x.getLsbD i = y.getLsbD i := by
    induction d using Nat.strong_induction_on generalizing i with
    | _ d ih =>
      by_cases hi : w ≤ i
      · rw [BitVec.getLsbD_of_ge x i hi, BitVec.getLsbD_of_ge y i hi]
      · have hi := hbit i
        rw [ih (d - k) (by omega) (k + i) (by omega)] at hi
        exact Bool.xor_left_inj.1 hi
  exact BitVec.eq_of_getLsbD_eq fun i _ => hall w i (by omega)

/-- The increment of `next64` is odd (rule R145). -/
theorem isUnit_increment : IsUnit (0x9E3779B97F4A7C15#64) := .of_mul_eq_one 0xF1DE83E19937733D#64 (by decide)

theorem mixA_injective : Function.Injective mixA :=
  (IsUnit.of_mul_eq_one 0x96DE1B173F119089#64 (by decide)).mul_left_injective.comp (xor_ushiftRight_injective (by decide))

theorem mixB_injective : Function.Injective mixB :=
  (IsUnit.of_mul_eq_one 0x319642B2D24D8EC3#64 (by decide)).mul_left_injective.comp (xor_ushiftRight_injective (by decide))

theorem mixC_injective : Function.Injective mixC := xor_ushiftRight_injective (by decide)

theorem next64Value_injective : Function.Injective next64Value :=
  mixC_injective.comp (mixB_injective.comp (mixA_injective.comp (add_left_injective _)))

/-- Fewer than 2^64 calls of `next64` reach as many states. -/
theorem iterate_next64State_inj {s : DWord} {i j : Nat} (hi : i < 2 ^ 64) (hj : j < 2 ^ 64)
    (h : next64State^[i] s = next64State^[j] s) : i = j := by
  have hs (k : Nat) : next64State^[k] s = s + (k : DWord) * 0x9E3779B97F4A7C15#64 := by
    rw [← nsmul_eq_mul]
    exact congrFun (add_right_iterate _ k) s
  rw [hs, hs] at h
  have hc : (i : DWord) = (j : DWord) := isUnit_increment.mul_left_injective (add_right_injective s h)
  have hn : i % 2 ^ 64 = j % 2 ^ 64 := congrArg BitVec.toNat hc
  rwa [Nat.mod_eq_of_lt hi, Nat.mod_eq_of_lt hj] at hn

/-! ## The rejection loop -/

/-- A loop that has not ended has rejected a value in every turn (rule R146). -/
theorem lt_of_refRangeLoop_eq_none {t n fuel : Nat} {s : DWord} (h : refRangeLoop t n fuel s = none) {k : Nat} (hk : k < fuel) :
    (next64Value (next64State^[k] s)).toNat < t := by
  induction fuel generalizing s k with
  | zero => omega
  | succ fuel ih =>
    rw [refRangeLoop] at h
    split at h
    · simp at h
    · rename_i hs
      cases k with
      | zero => exact Nat.lt_of_not_le hs
      | succ k =>
        rw [Function.iterate_succ_apply]
        exact ih h (by omega)

/-- There are `t` values below the threshold `t` and no two turns reject the same one, so more than `t` turns are enough (rule
R147). -/
theorem refRangeLoop_ne_none {t n fuel : Nat} {s : DWord} (ht : t < fuel) (hf : fuel ≤ 2 ^ 64) :
    refRangeLoop t n fuel s ≠ none := by
  intro h
  obtain ⟨i, hi, j, hj, hne, heq⟩ := Finset.exists_ne_map_eq_of_card_lt_of_maps_to (s := Finset.range fuel)
    (t := Finset.range t) (f := fun k => (next64Value (next64State^[k] s)).toNat) (by simpa using ht) fun k hk => by
      simpa using lt_of_refRangeLoop_eq_none h (by simpa using hk)
  rw [Finset.mem_range] at hi hj
  exact hne (iterate_next64State_inj (hi.trans_le hf) (hj.trans_le hf) (next64Value_injective (BitVec.eq_of_toNat_eq heq)))

/-- Settles O27: the threshold `2^64 mod n` is below the `n` turns the loop has. -/
theorem rangeEndsAndStaysBelowItsBound : Obligations.RangeEndsAndStaysBelowItsBound := by
  intro g st n h1 hn
  have hends : prngRange g st n ≠ none := by
    cases g with
    | other k => exact Option.some_ne_none _
    | ref =>
      have hloop : refRange (BitVec.ofNat 64 st) n ≠ none := refRangeLoop_ne_none (Nat.mod_lt _ h1) (by omega)
      obtain ⟨⟨v, st1⟩, hr⟩ := Option.ne_none_iff_exists'.1 hloop
      simp [prngRange, hr]
  obtain ⟨⟨v, st1⟩, hr⟩ := Option.ne_none_iff_exists'.1 hends
  exact ⟨v, st1, hr, prngRange_lt h1 hr⟩

/-! ## The redraw loop -/

section
variable {g : Prng} {sw sh k st : Nat} {used : List Coord}

/-- The redraw loop ends in the turn after `k` draws of used coordinates. -/
def FreshAfter (g : Prng) (sw sh : Nat) (used : List Coord) (k st : Nat) : Prop :=
  redraw g sw sh used k st = none ∧ redraw g sw sh used (k + 1) st ≠ none

theorem redraw_succ_eq_none : redraw g sw sh used (k + 1) st = none ↔
    ∀ xy st1, drawCoord g sw sh st = some (xy, st1) → xy ∈ used ∧ redraw g sw sh used k st1 = none := by
  cases hd : drawCoord g sw sh st with
  | none => simp [redraw, hd]
  | some p =>
    obtain ⟨xy, st1⟩ := p
    by_cases hu : xy ∈ used
    · simp [redraw_used hd hu, hu]
    · simp [redraw_new hd hu, hu]

/-- A loop that has ended has ended under any more fuel. -/
theorem redraw_eq_none_of_le {n : Nat} (h : redraw g sw sh used n st = none) (hk : k ≤ n) : redraw g sw sh used k st = none := by
  induction n generalizing k st with
  | zero => rwa [Nat.le_zero.1 hk]
  | succ n ih =>
    cases k with
    | zero => rfl
    | succ k =>
      rw [redraw_succ_eq_none] at h ⊢
      exact fun xy st1 hd => (h xy st1 hd).imp_right fun h => ih h (by omega)

theorem exists_freshAfter {n : Nat} (h : redraw g sw sh used n st ≠ none) : ∃ k, FreshAfter g sw sh used k st := by
  induction n with
  | zero => exact absurd rfl h
  | succ n ih =>
    by_cases hn : redraw g sw sh used n st = none
    · exact ⟨n, hn, h⟩
    · exact ih hn

/-- A state ends the loop in one turn only. -/
theorem FreshAfter.le {j : Nat} (hk : FreshAfter g sw sh used k st) (hj : FreshAfter g sw sh used j st) : k ≤ j :=
  Nat.le_of_not_lt fun hlt => hj.2 (redraw_eq_none_of_le hk.1 hlt)

/-- A loop that ends in a later turn goes through a state that has one turn less to go. -/
theorem FreshAfter.step (h : FreshAfter g sw sh used (k + 1) st) : ∃ st1, FreshAfter g sw sh used k st1 := by
  obtain ⟨hk, hk1⟩ := h
  rw [Ne, redraw_succ_eq_none] at hk1
  push Not at hk1
  obtain ⟨xy, st1, hd, hn⟩ := hk1
  obtain ⟨hu, hr⟩ := redraw_succ_eq_none.1 hk xy st1 hd
  exact ⟨st1, hr, hn hu⟩

theorem FreshAfter.exists_of_le {j : Nat} (h : FreshAfter g sw sh used k st) (hj : j ≤ k) :
    ∃ st1, FreshAfter g sw sh used j st1 := by
  induction hj using Nat.decreasingInduction with
  | self => exact ⟨st, h⟩
  | of_succ _ _ ih =>
    obtain ⟨st1, h1⟩ := ih
    exact h1.step

/-- `REF_PRNG` sees its state modulo 2^64 only (rule R145). -/
theorem prngRange_ref_mod (st n : Nat) : prngRange .ref (BitVec.ofNat 64 st).toNat n = prngRange .ref st n := by
  simp only [prngRange, BitVec.ofNat_toNat, BitVec.setWidth_eq]

theorem redraw_ref_mod (k st : Nat) : redraw .ref sw sh used k (BitVec.ofNat 64 st).toNat = redraw .ref sw sh used k st := by
  cases k with
  | zero => rfl
  | succ k => simp only [redraw, drawCoord, prngRange_ref_mod]

/-- The 2^64 states of `REF_PRNG` end the loop in at most 2^64 turns: each turn to go has a state of its own. -/
theorem FreshAfter.lt_drawBound (h : FreshAfter .ref sw sh used k st) : k < drawBound := by
  have hstate (j : Fin (k + 1)) : ∃ w : DWord, FreshAfter .ref sw sh used j w.toNat := by
    obtain ⟨st1, h1⟩ := h.exists_of_le (Nat.le_of_lt_succ j.2)
    exact ⟨BitVec.ofNat 64 st1, by simpa only [FreshAfter, redraw_ref_mod] using h1⟩
  choose f hf using hstate
  have hinj : Function.Injective f := fun i j hij =>
    Fin.ext (Nat.le_antisymm ((hf i).le (hij ▸ hf j)) ((hf j).le (hij ▸ hf i)))
  have hcard := Fintype.card_le_of_injective f hinj
  rwa [Fintype.card_fin, ← FinEnum.card_eq_fintypeCard, FinEnum.card_bitVec] at hcard

end

/-- Settles O28: a redraw that ends at all ends within the bound. -/
theorem hangOfTheReferenceGeneratorIsExact : Obligations.HangOfTheReferenceGeneratorIsExact := by
  intro sw sh st fuel used hbound
  by_contra hfuel
  obtain ⟨k, hk⟩ := exists_freshAfter hfuel
  exact hk.2 (redraw_eq_none_of_le hbound hk.lt_drawBound)

end Sys2Proof.Machine
end

section
/-! SUPPORT. What the traversal depends on: the generator, the seed, the size and the mode (spec/42_prng_seed.md rule R144), and in
Sequential mode not the seed (spec/43_sequencer.md rule R163). Two runs of a command, told apart by the seed, are compared step
by step. -/

namespace Sys2Proof.Machine

/-! ## The traversal -/

section
variable {s t : State}

theorem SeqAgree.symm (h : SeqAgree s t) : SeqAgree t s :=
  ⟨h.prng.symm, h.sw.symm, h.sh.symm, h.smode.symm, h.seqCnt.symm, h.prngS.symm, h.used.symm⟩

theorem coordsFrom_congr (h : SeqAgree s t) (n : Nat) : coordsFrom n s = coordsFrom n t :=
  Option.ext fun _ => ⟨coordsFrom_agree h, coordsFrom_agree h.symm⟩

/-- `seq_init` loads the generator from the seed and forgets the traversal before it (rules R145, R161). -/
theorem seqInit_agree (m : Mode) (hp : s.cfg.prng = t.cfg.prng) (hhi : s.seedHi = t.seedHi) (hlo : s.seedLo = t.seedLo)
    (hw : s.width = t.width) (hh : s.height = t.height) : SeqAgree (seqInit m s) (seqInit m t) where
  prng := hp
  sw := hw
  sh := hh
  smode := rfl
  seqCnt := rfl
  prngS := by simp [State.seed, hp, hhi, hlo]
  used := rfl

end

/-- Settles O35. -/
theorem traversalDependsOnlyOnSeedSizeAndMode : Obligations.TraversalDependsOnlyOnSeedSizeAndMode :=
  fun _ _ m n hp hhi hlo hw hh => coordsFrom_congr (seqInit_agree m hp hhi hlo hw hh) n

/-! ## Two runs compared -/

section
variable {α β : Type} {R Q : State → State → Prop} {r r' : Res α}

/-- Two pieces end alike, with the same value, error or fault, in states that `R` relates. -/
inductive Res.Rel (R : State → State → Prop) : Res α → Res α → Prop
  | ok (a : α) {s t : State} (h : R s t) : Res.Rel R (.ok a s) (.ok a t)
  | raised (e : CmdError) {s t : State} (h : R s t) : Res.Rel R (.raised e s) (.raised e t)
  | suspended {s t : State} (h : R s t) : Res.Rel R (.suspended s) (.suspended t)
  | stuck (x : Fault) : Res.Rel R (.stuck x) (.stuck x)

theorem Res.Rel.mono (h : r.Rel R r') (hq : ∀ s t, R s t → Q s t) : r.Rel Q r' := by
  cases h with
  | ok a h => exact .ok a (hq _ _ h)
  | raised e h => exact .raised e (hq _ _ h)
  | suspended h => exact .suspended (hq _ _ h)
  | stuck x => exact .stuck x

/-- The rule for a sequence: the second parts start with the same value in related states. -/
theorem Res.Rel.andThen {f f' : α → State → Res β} (h : r.Rel R r') (hf : ∀ a s t, R s t → (f a s).Rel R (f' a t)) :
    (r.andThen f).Rel R (r'.andThen f') := by
  cases h with
  | ok a h => exact hf a _ _ h
  | raised e h => exact .raised e h
  | suspended h => exact .suspended h
  | stuck x => exact .stuck x

/-- The rule for a check that reads the same in both runs. -/
theorem Res.Rel.ite {c c' : Prop} [Decidable c] [Decidable c'] {q q' : Res α} (hc : c ↔ c') (hr : c → r.Rel R r')
    (hq : ¬ c → q.Rel R q') : (if c then r else q).Rel R (if c' then r' else q') := by
  by_cases h : c
  · rw [if_pos h, if_pos (hc.1 h)]
    exact hr h
  · rw [if_neg h, if_neg fun h' => h (hc.2 h')]
    exact hq h

end

/-! ## Another seed -/

/-- `t` is `s` with the seed `hi ++ lo` and with some `PRNG_S`. -/
def State.Reseeded (lo hi : Word) (s t : State) : Prop := ∃ p, t = { s with seedLo := lo, seedHi := hi, prngS := p }

/-- In the middle of a Sequential traversal of an image that fits PIX, `t` is `s` with another seed. -/
def State.RunsReseeded (lo hi : Word) (s t : State) : Prop := s.Traverses .seq ∧ s.Reseeded lo hi t

section
variable {lo hi : Word} {s t : State}

theorem State.Reseeded.seqInit (h : s.Reseeded lo hi t) (hd : s.DimsOk) :
    (seqInit .seq s).RunsReseeded lo hi (seqInit .seq t) := by
  obtain ⟨p, rfl⟩ := h
  exact ⟨traverses_seqInit .seq hd, _, rfl⟩

/-- A Sequential request does not read the generator (rule R163). -/
theorem State.RunsReseeded.seqNext (h : s.RunsReseeded lo hi t) :
    (∃ xy s1 t1, seqNext s = .ok xy s1 ∧ seqNext t = .ok xy t1 ∧ s1.RunsReseeded lo hi t1) ∨
    (s.sw.toNat * s.sh.toNat ≤ s.seqCnt ∧ t.sw.toNat * t.sh.toNat ≤ t.seqCnt) := by
  obtain ⟨hs, p, rfl⟩ := h
  rcases Nat.lt_or_ge s.seqCnt (s.sw.toNat * s.sh.toNat) with hc | hc
  · have hn := seqNext_sequential hc hs.smode
    exact .inl ⟨_, _, _, hn, seqNext_sequential hc hs.smode, hs.emitted (seqNext_ok hn), p, rfl⟩
  · exact .inr ⟨hc, hc⟩

theorem State.RunsReseeded.pullBit (h : s.RunsReseeded lo hi t) : (pullBit s).Rel (RunsReseeded lo hi) (pullBit t) := by
  have hn := h.seqNext
  obtain ⟨hs, p, rfl⟩ := h
  by_cases hb : s.bitpos % 3 = 0
  · rcases hn with ⟨xy, s1, t1, h1, h2, hr, q, rfl⟩ | ⟨hc, hc'⟩
    · obtain ⟨hsw, hsh, hf⟩ := hs.latched
      rw [pullBit_fresh hb h1 hsw hsh hf, pullBit_fresh (by exact hb) h2 hsw hsh hf]
      exact .ok _ ⟨hr.tailed rfl, q, rfl⟩
    · rw [pullBit_exhausted hb hc, pullBit_exhausted (by exact hb) hc']
      exact .raised _ ⟨hs, p, rfl⟩
  · rw [pullBit_held hb, pullBit_held (by exact hb)]
    exact .ok _ ⟨hs.tailed rfl, p, rfl⟩

theorem State.RunsReseeded.pullBits (n v : Nat) (h : s.RunsReseeded lo hi t) :
    (pullBits n v s).Rel (RunsReseeded lo hi) (pullBits n v t) := by
  induction n generalizing v s t with
  | zero => exact .ok v h
  | succ n ih => exact h.pullBit.andThen fun b _ _ h1 => ih _ h1

theorem State.RunsReseeded.pullField (n : Nat) (h : s.RunsReseeded lo hi t) :
    (pullField n s).Rel (RunsReseeded lo hi) (pullField n t) := h.pullBits n 0

/-! ### EXTRACT -/

theorem State.RunsReseeded.extractPayload (n j : Nat) (h : s.RunsReseeded lo hi t) :
    (extractPayload n j s).Rel (RunsReseeded lo hi) (extractPayload n j t) := by
  induction n generalizing j s t with
  | zero => exact .ok () h
  | succ n ih =>
    rw [extractPayload_succ, extractPayload_succ]
    refine (h.pullField 8).andThen fun v s1 t1 h1 => ?_
    obtain ⟨hs, p, rfl⟩ := h1
    exact .ite Iff.rfl (fun _ => ih (j + 1) ⟨hs.tailed rfl, p, rfl⟩) fun _ => .stuck _

theorem State.RunsReseeded.extractVerify (h : s.RunsReseeded lo hi t) :
    (extractVerify s).Rel (RunsReseeded lo hi) (extractVerify t) := by
  obtain ⟨hs, p, rfl⟩ := h
  exact .ite Iff.rfl (fun _ => .ok () ⟨hs.tailed rfl, p, rfl⟩) fun _ => .raised _ ⟨hs.tailed rfl, p, rfl⟩

theorem State.RunsReseeded.extractTail (h : s.RunsReseeded lo hi t) :
    (extractTail s).Rel (RunsReseeded lo hi) (extractTail t) := by
  have hpay (n : Nat) := h.extractPayload n 0
  obtain ⟨hs, p, rfl⟩ := h
  refine .ite Iff.rfl (fun _ => .raised _ ⟨hs, p, rfl⟩) fun _ => (hpay _).andThen fun _ s1 t1 h1 => ?_
  refine (h1.pullField 32).andThen fun v s2 t2 h2 => ?_
  obtain ⟨hs, p, rfl⟩ := h2
  exact RunsReseeded.extractVerify ⟨hs.tailed rfl, p, rfl⟩

theorem State.RunsReseeded.extractGate (h : s.RunsReseeded lo hi t) :
    (extractGate s).Rel (RunsReseeded lo hi) (extractGate t) := by
  have ht := h.extractTail
  obtain ⟨hs, p, rfl⟩ := h
  exact .ite Iff.rfl (fun _ => .suspended ⟨⟨hs.smode, hs.latched⟩, p, rfl⟩) fun _ => ht

/-! ### EMBED -/

theorem State.RunsReseeded.embedLoop (payload : List Byte) (c : Word) (r n k : Nat) (h : s.RunsReseeded lo hi t) :
    (embedLoop payload c r n k s).Rel (RunsReseeded lo hi) (embedLoop payload c r n k t) := by
  induction n generalizing k s t with
  | zero => exact .ok () h
  | succ n ih =>
    rcases h.seqNext with ⟨xy, s1, t1, h1, h2, hs1, p, rfl⟩ | ⟨hc, hc'⟩
    · obtain ⟨hl, hx, hy⟩ := (seqNext_ok h1).latched h.1.latched
      rw [embedLoop_succ h1 hl hx hy, embedLoop_succ h2 hl hx hy]
      exact ih (k + 1) ⟨⟨hs1.smode, hl⟩, p, rfl⟩
    · rw [Machine.embedLoop, Machine.embedLoop, seqNext_full hc, seqNext_full hc']
      exact .raised _ h

theorem State.Reseeded.embedFrame (payload : List Byte) (h : s.Reseeded lo hi t) (hd : s.DimsOk) :
    (embedFrame .seq payload s).Rel (Reseeded lo hi) (embedFrame .seq payload t) := by
  have hrun := h.seqInit hd
  obtain ⟨p, rfl⟩ := h
  exact .ite Iff.rfl (fun _ => .raised _ ⟨p, rfl⟩) fun _ => (hrun.embedLoop _ _ _ _ _).mono fun _ _ h => h.2

/-! ### The three bodies -/

/-- The dimension check reads no seed, and what follows it starts in the same pair of states. -/
theorem State.Reseeded.checkDims_andThen {f f' : Unit → State → Res Unit} (h : s.Reseeded lo hi t)
    (hf : s.DimsOk → (f () s).Rel (Reseeded lo hi) (f' () t)) :
    ((checkDims s).andThen f).Rel (Reseeded lo hi) ((checkDims t).andThen f') := by
  obtain ⟨p, rfl⟩ := h
  by_cases hd : s.DimsOk
  · rw [checkDims_of_ok hd, checkDims_of_ok (by exact hd)]
    exact hf hd
  · rw [checkDims_of_not hd, checkDims_of_not (by exact hd)]
    exact .raised _ ⟨p, rfl⟩

theorem State.Reseeded.macroPrologue (h : s.Reseeded lo hi t) : (macroPrologue s).Reseeded lo hi (macroPrologue t) := by
  obtain ⟨p, rfl⟩ := h
  exact ⟨p, rfl⟩

theorem State.Reseeded.seqInitBody (h : s.Reseeded lo hi t) :
    (seqInitBody .seq s).Rel (Reseeded lo hi) (seqInitBody .seq t) :=
  h.checkDims_andThen fun hd => .ok () (h.seqInit hd).2

theorem State.Reseeded.embedBody (h : s.Reseeded lo hi t) : (embedBody .seq s).Rel (Reseeded lo hi) (embedBody .seq t) := by
  refine h.macroPrologue.checkDims_andThen fun hd => ?_
  obtain ⟨p, rfl⟩ := h
  refine .ite Iff.rfl (fun _ => .raised _ ⟨p, rfl⟩) fun hp => ?_
  rw [foldPbuf_of_le (by simpa using hp), foldPbuf_of_le (by simpa using hp)]
  exact Reseeded.embedFrame (s := { Machine.macroPrologue s with flen := s.plen, crcAcc := _ }) _ ⟨p, rfl⟩ hd

theorem State.Reseeded.extractBody (h : s.Reseeded lo hi t) :
    (extractBody .seq s).Rel (Reseeded lo hi) (extractBody .seq t) := by
  refine h.macroPrologue.checkDims_andThen fun hd => ?_
  refine Res.Rel.mono (((h.macroPrologue.seqInit hd).pullField 32).andThen fun l s1 t1 h1 => ?_) fun _ _ h => h.2
  obtain ⟨hs, p, rfl⟩ := h1
  exact RunsReseeded.extractGate ⟨⟨hs.smode, hs.latched⟩, p, rfl⟩

/-! ### The commands -/

theorem finish_reseeded {r r' : Res Unit} (h : r.Rel (State.Reseeded lo hi) r') (ht : finish r = .next t) :
    ∃ p, finish r' = .next { t with seedLo := lo, seedHi := hi, prngS := p } := by
  cases h with
  | ok _ h | raised _ h | suspended h =>
    obtain ⟨p, rfl⟩ := h
    cases ht
    exact ⟨p, rfl⟩
  | stuck x => cases ht

end

/-- Settles O36: the command is refused alike under both seeds, or its two bodies run alike. -/
theorem seedIsIrrelevantInSequentialMode : Obligations.SeedIsIrrelevantInSequentialMode := by
  intro s t i lo hi hi3 h
  have hbody {u v : State} (huv : u.Reseeded lo hi v) : (commandBody i u).Rel (State.Reseeded lo hi) (commandBody i v) := by
    rcases hi3 with rfl | rfl | rfl
    · exact huv.seqInitBody
    · exact huv.embedBody
    · exact huv.extractBody
  have hn : i ≠ .nop := by rcases hi3 with rfl | rfl | rfl <;> nofun
  have hc : i ≠ .clr := by rcases hi3 with rfl | rfl | rfl <;> nofun
  rw [exec_eq_runCommand hn hc] at h ⊢
  cases ha : accepted i s.run with
  | false =>
    rw [runCommand_of_not ha] at h
    cases h
    exact ⟨s.prngS, runCommand_of_not ha⟩
  | true =>
    rw [runCommand_of_accepted ha] at h
    rw [runCommand_of_accepted (by exact ha)]
    exact finish_reseeded (hbody ⟨s.prngS, rfl⟩) h

end Sys2Proof.Machine
end

section
/-! SUPPORT. The sequencer (spec/43_sequencer.md): what the redraw loop gives, draw by draw; what a traversal gives, by its
length, its mode and the state it starts in; the obligations of SEQ_INIT, SEQ_NEXT and the traversal. -/

namespace Sys2Proof.Machine

/-! ## The draws of one request -/

section
variable {g : Prng} {sw sh k st st1 : Nat} {used : List Coord} {xy : Coord}

/-- The first `k` draws from `st` end, and each gives a coordinate of `used`. -/
def UsedDraws (g : Prng) (sw sh : Nat) (used : List Coord) (k st : Nat) : Prop :=
  ∀ j, j < k → ∃ xy st1, drawAt g sw sh j st = some (xy, st1) ∧ xy ∈ used

/-- Of one draw more the first gives a coordinate of `used`, and the others follow it. -/
theorem UsedDraws.first (h : UsedDraws g sw sh used (k + 1) st) :
    ∃ xy st1, drawCoord g sw sh st = some (xy, st1) ∧ xy ∈ used ∧ UsedDraws g sw sh used k st1 := by
  obtain ⟨xy, st1, (hd : drawCoord g sw sh st = some (xy, st1)), hu⟩ := h 0 (Nat.succ_pos k)
  refine ⟨xy, st1, hd, hu, fun j hj => ?_⟩
  simpa only [drawAt, hd] using h (j + 1) (Nat.succ_lt_succ hj)

/-- The redraw loop passes over draws of used coordinates (rule R162). -/
theorem UsedDraws.redraw_eq_none (h : UsedDraws g sw sh used k st) : redraw g sw sh used k st = none := by
  induction k generalizing st with
  | zero => rfl
  | succ k ih =>
    obtain ⟨xy, st1, hd, hu, hrest⟩ := h.first
    rw [redraw_used hd hu]
    exact ih hrest

/-- The redraw loop ends at the first fresh draw, if the fuel reaches it (rules R162, R168). -/
theorem UsedDraws.redraw_eq_drawAt {fuel : Nat} (h : UsedDraws g sw sh used k st) (hk : k < fuel)
    (hd : drawAt g sw sh k st = some (xy, st1)) (hu : xy ∉ used) : redraw g sw sh used fuel st = some (xy, st1) := by
  induction k generalizing fuel st with
  | zero =>
    obtain ⟨fuel, rfl⟩ := Nat.exists_eq_succ_of_ne_zero (Nat.ne_zero_of_lt hk)
    exact redraw_new hd hu
  | succ k ih =>
    obtain ⟨fuel, rfl⟩ := Nat.exists_eq_succ_of_ne_zero (Nat.ne_zero_of_lt hk)
    obtain ⟨xy0, st0, hd0, hu0, hrest⟩ := h.first
    rw [redraw_used hd0 hu0]
    exact ih hrest (Nat.lt_of_succ_lt_succ hk) (by simpa only [drawAt, hd0] using hd)

end

/-! ## The coordinates of a traversal -/

section
variable {s t : State} {xy : Coord} {n : Nat} {cs : List Coord}

/-- What later requests of the same traversal find: the latches as they were, one coordinate more counted. -/
theorem Emitted.sequencer (he : Emitted xy s t) :
    t.sw = s.sw ∧ t.sh = s.sh ∧ t.smode = s.smode ∧ t.seqCnt = s.seqCnt + 1 := by
  rw [he.rest]
  exact ⟨rfl, rfl, rfl, rfl⟩

theorem length_of_coordsFrom (h : coordsFrom n s = some cs) : cs.length = n := by
  induction n generalizing s cs with
  | zero => cases h; rfl
  | succ n ih =>
    obtain ⟨xy, t, ds, -, ht, rfl⟩ := coordsFrom_succ.1 h
    rw [List.length_cons, ih ht]

theorem coordsFrom_inside (h : coordsFrom n s = some cs) : ∀ xy ∈ cs, xy.1 < s.sw.toNat ∧ xy.2 < s.sh.toNat := by
  induction n generalizing s cs with
  | zero => cases h; nofun
  | succ n ih =>
    obtain ⟨xy, t, ds, hs, ht, rfl⟩ := coordsFrom_succ.1 h
    have he := seqNext_ok hs
    obtain ⟨hsw, hsh, -, -⟩ := he.sequencer
    exact List.forall_mem_cons.2 ⟨he.inside, hsw ▸ hsh ▸ ih ht⟩

/-- No more requests are answered than coordinates are left (rule R162). -/
theorem coordsFrom_count (h : coordsFrom n s = some cs) (hc : s.seqCnt ≤ s.sw.toNat * s.sh.toNat) :
    s.seqCnt + n ≤ s.sw.toNat * s.sh.toNat := by
  induction n generalizing s cs with
  | zero => exact hc
  | succ n ih =>
    obtain ⟨xy, t, ds, hs, ht, rfl⟩ := coordsFrom_succ.1 h
    have he := seqNext_ok hs
    obtain ⟨hsw, hsh, -, hcnt⟩ := he.sequencer
    have hrest := ih ht (by rw [hsw, hsh, hcnt]; exact he.room)
    rw [hsw, hsh, hcnt] at hrest
    omega

/-- In Random mode each coordinate is fresh when it is emitted, and `USED` holds it from then on (rules R162, R164). -/
theorem coordsFrom_random (h : coordsFrom n s = some cs) (hm : s.smode = .rng) : cs.Nodup ∧ ∀ xy ∈ cs, xy ∉ s.used := by
  induction n generalizing s cs with
  | zero => cases h; exact ⟨.nil, nofun⟩
  | succ n ih =>
    obtain ⟨xy, t, ds, hs, ht, rfl⟩ := coordsFrom_succ.1 h
    have he := seqNext_ok hs
    obtain ⟨hfresh, hused⟩ := he.random hm
    obtain ⟨-, -, hmode, -⟩ := he.sequencer
    obtain ⟨hnodup, hnew⟩ := ih ht (hmode.trans hm)
    rw [hused] at hnew
    have hxy : xy ∉ ds := fun hmem => hnew xy hmem List.mem_cons_self
    exact ⟨List.nodup_cons.2 ⟨hxy, hnodup⟩,
      List.forall_mem_cons.2 ⟨hfresh, fun c hc hu => hnew c hc (List.mem_cons_of_mem xy hu)⟩⟩

/-- The coordinate of index `k` in raster order, in an image `w` wide (rule R163). -/
def rasterCoord (w k : Nat) : Coord := (k % w, k / w)

theorem rasterCoord_injective (w : Nat) : Function.Injective (rasterCoord w) := by
  intro i j h
  obtain ⟨hmod, hdiv⟩ := Prod.mk.inj h
  rw [← Nat.mod_add_div i w, hmod, hdiv, Nat.mod_add_div]

/-- In Sequential mode the requests go on in raster order from `SEQ_CNT` (rule R163). -/
theorem coordsFrom_sequential (hm : s.smode = .seq) (hn : s.seqCnt + n ≤ s.sw.toNat * s.sh.toNat) :
    coordsFrom n s = some ((List.range' s.seqCnt n).map (rasterCoord s.sw.toNat)) := by
  induction n generalizing s with
  | zero => rfl
  | succ n ih =>
    have hs := seqNext_sequential (s := s) (by omega) hm
    refine coordsFrom_succ.2 ⟨_, _, _, hs, ih hm ?_, rfl⟩
    change s.seqCnt + 1 + n ≤ s.sw.toNat * s.sh.toNat
    omega

/-- The Sequential traversal is raster order from `(0, 0)`, as far as the image goes. -/
theorem traversal_seq_eq (hn : n ≤ s.width.toNat * s.height.toNat) :
    traversal .seq n s = some ((List.range n).map (rasterCoord s.width.toNat)) := by
  rw [List.range_eq_range']
  exact coordsFrom_sequential (s := seqInit .seq s) rfl (by simpa using hn)

/-- A traversal, in either mode, is no longer than the image has pixels (rule R162). -/
theorem le_of_traversal {m : Mode} (h : traversal m n s = some cs) : n ≤ s.width.toNat * s.height.toNat := by
  simpa using coordsFrom_count h (Nat.zero_le _)

/-- The coordinates of a traversal are distinct: by `USED` in Random mode, by raster order in Sequential mode (rule R166). -/
theorem nodup_of_traversal {m : Mode} (h : traversal m n s = some cs) : cs.Nodup := by
  cases m with
  | rng => exact (coordsFrom_random h rfl).1
  | seq =>
    rw [traversal_seq_eq (le_of_traversal h)] at h
    cases h
    exact List.nodup_range.map (rasterCoord_injective _)

end

/-- Settles O33. -/
theorem sequentialTraversalIsRasterOrder : Obligations.SequentialTraversalIsRasterOrder := by
  refine fun s n => ⟨traversal_seq_eq, fun hn => ?_⟩
  exact Option.eq_none_iff_forall_ne_some.2 fun cs h => Nat.not_lt.2 (le_of_traversal h) hn

/-- Settles O34. -/
theorem traversalNeverRepeatsACoordinate : Obligations.TraversalNeverRepeatsACoordinate := fun _ _ _ _ h =>
  ⟨length_of_coordsFrom h, nodup_of_traversal h, coordsFrom_inside h⟩

/-! ## SEQ_INIT and SEQ_NEXT -/

section
variable {s t : State}

theorem exec_seqNext_of_idle (hr : s.run = .idle) : exec .seqNext s = finish (seqNextBody (prologue s)) :=
  exec_of_idle .seqNext nofun nofun rfl hr

theorem seqInitBody_of_ok (m : Mode) (h : s.DimsOk) : seqInitBody m s = .ok () (seqInit m s) := by
  rw [seqInitBody, checkDims_of_ok h, andThen_ok]

theorem seqInitBody_of_not (m : Mode) (h : ¬ s.DimsOk) : seqInitBody m s = .raised .badDimensions s := by
  rw [seqInitBody, checkDims_of_not h, andThen_raised]

/-- SEQ_NEXT answered: the state its request leaves, completed (rules R165, R227). -/
theorem exec_seqNext_of_ok {xy : Coord} (hr : s.run = .idle) (h : seqNext (prologue s) = .ok xy t) :
    exec .seqNext s = .next { t with done := true } := by
  rw [exec_seqNext_of_idle hr, seqNextBody, h, andThen_ok, finish_ok]

end

/-- Settles O29: the dimensions, the seed and the configuration are not the prologue's to touch. -/
theorem seqInitLatchesOrRaisesBadDimensions : Obligations.SeqInitLatchesOrRaisesBadDimensions := by
  intro s m hr
  rw [exec_of_idle (.seqInit m) nofun nofun rfl hr, commandBody]
  refine ⟨fun hd => ?_, fun hd => ?_⟩
  · rw [seqInitBody_of_ok (s := prologue s) m hd]
    rfl
  · rw [seqInitBody_of_not (s := prologue s) m hd]
    rfl

/-- Settles O30. -/
theorem seqNextSequentialEmitsTheRasterCoordinate : Obligations.SeqNextSequentialEmitsTheRasterCoordinate :=
  fun s hr hm hc => exec_seqNext_of_ok hr (seqNext_sequential (s := prologue s) hc hm)

/-- Settles O31: the first fresh draw ends the redraw loop, and draws of used coordinates alone spend its whole bound. -/
theorem seqNextRandomEmitsTheFirstFreshDraw : Obligations.SeqNextRandomEmitsTheFirstFreshDraw := by
  intro s hr hm hc
  refine ⟨fun k x y st hk hd hu hused => ?_, fun hused => ?_⟩
  · have hfresh := UsedDraws.redraw_eq_drawAt (fuel := drawBound) hused hk hd hu
    exact exec_seqNext_of_ok hr (seqNext_random (s := prologue s) hc hm hfresh)
  · have hnone := UsedDraws.redraw_eq_none (k := drawBound) hused
    rw [exec_seqNext_of_idle hr, seqNextBody, seqNext_hang (s := prologue s) hc hm hnone, andThen_stuck, finish_stuck]

/-- Settles O32. -/
theorem seqNextAtTheEndRaisesSeqExhausted : Obligations.SeqNextAtTheEndRaisesSeqExhausted := by
  intro s hr hc
  rw [exec_seqNext_of_idle hr, seqNextBody, seqNext_full (s := prologue s) hc, andThen_raised]
  rfl

end Sys2Proof.Machine
end

section
/-! SUPPORT. The commands of the multiplexer (spec/44_lsb_mux.md rules R176 to R182): the triplet a pixel reads as, the byte a
present slot leaves, the bodies inside and outside the image, and the obligations of MUX_WR and MUX_RD. -/

namespace Sys2Proof.Machine

/-! ## The triplet of a pixel -/

/-- What `mux_rd` makes of `TRIP`: the three LSBs of the pixel at a coordinate, every slot present (rule R177). -/
def State.tripAt (s : State) (xy : Coord) : Trip :=
  tripOfSlots (.bit (s.lsbAt xy 0)) (.bit (s.lsbAt xy 1)) (.bit (s.lsbAt xy 2))

theorem tripOfSlots_bits_p : ∀ a b c : Bool, (tripOfSlots (.bit a) (.bit b) (.bit c)).p = 7#3 := by decide

theorem State.tripAt_p (s : State) (xy : Coord) : (s.tripAt xy).p = 7#3 := tripOfSlots_bits_p ..

theorem State.tripAt_v (s : State) (xy : Coord) {k : Nat} (hk : k < 3) : (s.tripAt xy).v.getLsbD k = s.lsbAt xy k := by
  obtain rfl | rfl | rfl : k = 0 ∨ k = 1 ∨ k = 2 := by omega
  · exact tripOfSlots_v0 ..
  · exact tripOfSlots_v1 ..
  · exact tripOfSlots_v2 ..

/-! ## The byte of a slot -/

theorem Trip.slot_of_present {t : Trip} {k : Nat} (h : t.p.getLsbD k = true) : t.slot k = .bit (t.v.getLsbD k) := if_pos h

theorem Trip.present_of_slot {t : Trip} {k : Nat} (h : t.slot k ≠ .absent) : t.p.getLsbD k = true := by
  by_contra hp
  exact h (if_neg hp)

/-- `setLsb` with the bit written as a byte (rule R176). -/
theorem setLsb_eq (old : Byte) (b : Bool) : setLsb old b = (old &&& 0xFE#8) ||| (if b then 1#8 else 0#8) := by
  cases b <;> rfl

theorem muxPix_present {s : State} {x y k : Nat} (hw : s.pix.wf = true) (hk : k < 3) (hp : s.trip.p.getLsbD k = true) :
    (muxPix s x y).read (s.pixAddr x y k) = setLsb (s.pix.read (s.pixAddr x y k)) (s.trip.v.getLsbD k) := by
  rw [muxPix_slot hw hk, Trip.slot_of_present hp]

/-! ## The bodies -/

section
variable {s : State}

theorem muxWrBody_of_ok (h : s.XyOk) : muxWrBody s = .ok () { s with pix := muxPix s s.seqX.toNat s.seqY.toNat } := by
  rw [muxWrBody, checkXy_of_ok h, andThen_ok]
  obtain ⟨hm, hx, hy⟩ := h
  exact muxWr_ok hm hx hy

theorem muxWrBody_of_not (h : ¬ s.XyOk) : muxWrBody s = .raised .pixelRange s := by
  rw [muxWrBody, checkXy_of_not h, andThen_raised]

theorem muxRdBody_of_ok (h : s.XyOk) : muxRdBody s = .ok () { s with trip := s.tripAt (s.seqX.toNat, s.seqY.toNat) } := by
  rw [muxRdBody, checkXy_of_ok h, andThen_ok]
  obtain ⟨hm, hx, hy⟩ := h
  exact muxRd_ok hm hx hy

theorem muxRdBody_of_not (h : ¬ s.XyOk) : muxRdBody s = .raised .pixelRange s := by
  rw [muxRdBody, checkXy_of_not h, andThen_raised]

end

/-! ## The commands -/

/-- Settles O37: PIX becomes `muxPix`, which is known byte by byte at the channels of the present slots and elsewhere. -/
theorem muxWrWritesThePresentSlots : Obligations.MuxWrWritesThePresentSlots := by
  intro s hr
  rw [exec_of_idle .muxWr nofun nofun rfl hr, commandBody]
  refine ⟨fun h hw => ⟨muxPix s s.seqX.toNat s.seqY.toNat, ?_, fun k hk hp => ?_, fun a ha => ?_⟩, fun h => ?_⟩
  · rw [muxWrBody_of_ok (s := prologue s) h]
    rfl
  · rw [← setLsb_eq]
    exact muxPix_present hw hk hp
  · exact muxPix_other fun k hk hslot => ha k hk (Trip.present_of_slot hslot)
  · rw [muxWrBody_of_not (s := prologue s) h]
    rfl

/-- Settles O38: the triplet is `tripAt` of the pixel at the cursor. -/
theorem muxRdReadsTheThreeLsbs : Obligations.MuxRdReadsTheThreeLsbs := by
  intro s hr
  rw [exec_of_idle .muxRd nofun nofun rfl hr, commandBody]
  refine ⟨fun h => ⟨s.tripAt (s.seqX.toNat, s.seqY.toNat), ?_, s.tripAt_p _, fun k hk => s.tripAt_v _ hk⟩, fun h => ?_⟩
  · rw [muxRdBody_of_ok (s := prologue s) h]
    rfl
  · rw [muxRdBody_of_not (s := prologue s) h]
    rfl

end Sys2Proof.Machine
end

section
/-! SUPPORT. EMBED (spec/45_embed.md rules R190 to R195): its three checks in order and where each leaves it, the triplet loop on a
traversal that answers, what it makes of PIX byte by byte, and the obligations of EMBED. -/

namespace Sys2Proof.Machine

/-! ## The checks -/

/-- What EMBED asks of a state before the traversal: good dimensions, a payload in PBUF, and room for its frame (rule R191). -/
structure State.EmbedFits (s : State) : Prop where
  dims : s.DimsOk
  buffer : s.plen.toNat ≤ s.cfg.pbufSize
  capacity : frameBits s.plen.toNat ≤ 3 * s.width.toNat * s.height.toNat

/-- The state after the CRC of the payload is folded (rule R190 step 2). -/
def State.framed (s : State) : State :=
  { macroPrologue s with flen := s.plen, crcAcc := crcFold 0xFFFFFFFF#32 (s.payload s.plen.toNat) }

/-- The pixels the frame of the payload takes (rule R191). -/
abbrev State.framePixels (s : State) : Nat := ceilDiv (frameBits s.plen.toNat) 3

/-- `seq_init` and the triplets of the frame (rule R190 steps 3 to 7). -/
def State.writeFrame (m : Mode) (s : State) : Res Unit :=
  embedLoop (s.payload s.plen.toNat) (crc32 (s.payload s.plen.toNat)) (frameBits s.plen.toNat) s.framePixels 0
    (seqInit m s.framed)

section
variable {s : State} {m : Mode}

theorem embedBody_of_badDims (hd : ¬ s.DimsOk) : embedBody m s = .raised .badDimensions (macroPrologue s) := by
  rw [embedBody, checkDims_of_not (s := macroPrologue s) hd, andThen_raised]

theorem embedBody_of_buffer_lt (hd : s.DimsOk) (hb : s.cfg.pbufSize < s.plen.toNat) :
    embedBody m s = .raised .bufferRange (macroPrologue s) := by
  rw [embedBody, checkDims_of_ok (s := macroPrologue s) hd, andThen_ok]
  exact if_pos hb

theorem embedBody_of_buffer_le (hd : s.DimsOk) (hb : s.plen.toNat ≤ s.cfg.pbufSize) :
    embedBody m s = embedFrame m (s.payload s.plen.toNat) s.framed := by
  rw [embedBody, checkDims_of_ok (s := macroPrologue s) hd, andThen_ok, if_neg (by exact Nat.not_lt.2 hb),
    foldPbuf_of_le (by exact hb), andThen_ok]
  rfl

theorem embedBody_of_capacity_lt (hd : s.DimsOk) (hb : s.plen.toNat ≤ s.cfg.pbufSize)
    (hc : 3 * s.width.toNat * s.height.toNat < frameBits s.plen.toNat) :
    embedBody m s = .raised .capacityExceeded s.framed := by
  rw [embedBody_of_buffer_le hd hb]
  exact if_pos hc

/-- Past the checks the trailer is the CRC-32 of the payload. -/
theorem embedBody_of_fits (h : s.EmbedFits) : embedBody m s = s.writeFrame m := by
  rw [embedBody_of_buffer_le h.dims h.buffer]
  exact if_neg (Nat.not_lt.2 h.capacity)

theorem embedBody_of_not_fits (h : ¬ s.EmbedFits) : ∃ e t, embedBody m s = .raised e t := by
  by_cases hd : s.DimsOk
  · rcases Nat.lt_or_ge s.cfg.pbufSize s.plen.toNat with hb | hb
    · exact ⟨_, _, embedBody_of_buffer_lt hd hb⟩
    · exact ⟨_, _, embedBody_of_capacity_lt hd hb (Nat.lt_of_not_le fun hc => h ⟨hd, hb, hc⟩)⟩
  · exact ⟨_, _, embedBody_of_badDims hd⟩

theorem exec_embed_of_idle (hr : s.run = .idle) : exec (.embed m) s = finish (embedBody m (prologue s)) :=
  exec_of_idle (.embed m) nofun nofun rfl hr

end

/-- Settles O42: each check that fails raises its error on the state the writes before it leave. -/
theorem embedErrorsLeavePixAndSequencerAlone : Obligations.EmbedErrorsLeavePixAndSequencerAlone := by
  intro s m hr
  rw [exec_embed_of_idle hr]
  refine ⟨fun hd => ?_, fun hd hb => ?_, fun hd hb hc => ?_⟩
  · rw [embedBody_of_badDims (s := prologue s) hd]
    rfl
  · rw [embedBody_of_buffer_lt (s := prologue s) hd hb]
    rfl
  · rw [embedBody_of_capacity_lt (s := prologue s) hd hb hc]
    rfl

/-! ## The frame in PIX -/

/-- What a slot makes of the byte of its channel (rule R176). -/
def Slot.store : Slot → Byte → Byte
  | .absent, old => old
  | .bit b, old => setLsb old b

theorem setLsb_setLsb : ∀ (old : Byte) (b : Bool), setLsb (setLsb old b) b = setLsb old b := by decide

theorem Slot.store_store (x : Slot) (old : Byte) : x.store (x.store old) = x.store old := by
  cases x with
  | absent => rfl
  | bit b => exact setLsb_setLsb old b

section
variable {s : State} {xy : Coord} {tr : Trip} {b : Nat}

theorem tripletWritten_channel {j : Nat} (hw : s.pix.wf = true) (hj : j < 3) :
    (s.tripletWritten xy tr b).pix.read (s.pixAddr xy.1 xy.2 j) = (tr.slot j).store (s.pix.read (s.pixAddr xy.1 xy.2 j)) := by
  refine (muxPix_slot (s := { s with trip := tr }) hw hj).trans ?_
  cases tr.slot j <;> rfl

theorem tripletWritten_other {a : Nat} (h : ∀ j, j < 3 → a ≠ s.pixAddr xy.1 xy.2 j) :
    (s.tripletWritten xy tr b).pix.read a = s.pix.read a :=
  muxPix_other (s := { s with trip := tr }) fun j hj _ => h j hj

end

/-- From `p` to `q` the triplets of a frame from triplet `k` on are written to the pixels `cs` of an image `w` wide, one each, and
nothing else changes. -/
structure FrameWritten (payload : List Byte) (c : Word) (r w k : Nat) (cs : List Coord) (p q : Memory) : Prop where
  channel : ∀ i xy j, cs[i]? = some xy → j < 3 →
    q.read (pixAddr w xy.1 xy.2 j) = (frameSlot payload c r (3 * (k + i) + j)).store (p.read (pixAddr w xy.1 xy.2 j))
  elsewhere : ∀ a, (∀ xy ∈ cs, ∀ j, j < 3 → a ≠ pixAddr w xy.1 xy.2 j) → q.read a = p.read a

section
variable {payload : List Byte} {c : Word} {r w k : Nat} {cs : List Coord} {p q o : Memory}

theorem FrameWritten.nil : FrameWritten payload c r w k [] p p := ⟨nofun, fun _ _ => rfl⟩

/-- A byte is as before, or is the channel of one slot, which has stored its bit there if it is present. -/
theorem FrameWritten.read (h : FrameWritten payload c r w k cs p q) (a : Nat) :
    (∃ i xy j, cs[i]? = some xy ∧ j < 3 ∧ a = pixAddr w xy.1 xy.2 j ∧
      q.read a = (frameSlot payload c r (3 * (k + i) + j)).store (p.read a)) ∨ q.read a = p.read a := by
  by_cases ha : ∀ xy ∈ cs, ∀ j, j < 3 → a ≠ pixAddr w xy.1 xy.2 j
  · exact .inr (h.elsewhere a ha)
  · push Not at ha
    obtain ⟨xy, hxy, j, hj, rfl⟩ := ha
    obtain ⟨i, hi⟩ := List.getElem?_of_mem hxy
    exact .inl ⟨i, xy, j, hi, hj, rfl, h.channel i xy j hi hj⟩

/-- Where the whole frame is written, the bit of its index `i` is the data bit of channel `i mod 3` of pixel `i div 3`. -/
theorem FrameWritten.lsb {i : Nat} {xy : Coord} (h : FrameWritten payload c r w 0 cs p q) (hi : i < r)
    (hxy : cs[i / 3]? = some xy) : lsb (q.read (pixAddr w xy.1 xy.2 (i % 3))) = frameBitWith payload c i := by
  have hidx : 3 * (0 + i / 3) + i % 3 = i := by omega
  rw [h.channel _ xy _ hxy (Nat.mod_lt i (by decide)), hidx, frameSlot, if_pos hi]
  exact setLsb_lsb _ _

/-- A byte that is the channel of no bit of the frame is as before. -/
theorem FrameWritten.kept {a : Nat} (h : FrameWritten payload c r w 0 cs p q)
    (ha : ∀ i xy, i < r → cs[i / 3]? = some xy → a ≠ pixAddr w xy.1 xy.2 (i % 3)) : q.read a = p.read a := by
  obtain ⟨i, xy, j, hxy, hj, rfl, hq⟩ | hq := h.read a
  · have hdiv : (3 * i + j) / 3 = i := by omega
    have hmod : (3 * i + j) % 3 = j := by omega
    have habsent : ¬ 3 * i + j < r := fun hi => ha _ xy hi (hdiv.symm ▸ hxy) (hmod.symm ▸ rfl)
    rw [hq, Nat.zero_add, frameSlot, if_neg habsent, Slot.store]
  · exact hq

/-- Writing the same frame to the same pixels again changes nothing (rule R195 (b)). -/
theorem FrameWritten.read_again (h : FrameWritten payload c r w k cs p q) (h' : FrameWritten payload c r w k cs q o) (a : Nat) :
    o.read a = q.read a := by
  obtain ⟨i, xy, j, hi, hj, rfl, ho⟩ | ho := h'.read a
  · rw [ho, h.channel i xy j hi hj, Slot.store_store]
  · exact ho

/-- The first triplet is written, then the others to other pixels. -/
theorem FrameWritten.cons {s : State} {xy : Coord} {ds : List Coord} {b : Nat} (hw : s.pix.wf = true)
    (hin : ∀ d ∈ xy :: ds, d.1 < s.width.toNat) (hnd : (xy :: ds).Nodup)
    (h : FrameWritten payload c r s.width.toNat (k + 1) ds (s.tripletWritten xy (frameTrip payload c r k) b).pix q) :
    FrameWritten payload c r s.width.toNat k (xy :: ds) s.pix q := by
  obtain ⟨hx, hds⟩ := List.forall_mem_cons.1 hin
  obtain ⟨hnot, -⟩ := List.nodup_cons.1 hnd
  have hne : ∀ d ∈ ds, ∀ i j, i < 3 → j < 3 → pixAddr s.width.toNat xy.1 xy.2 i ≠ pixAddr s.width.toNat d.1 d.2 j := by
    intro d hd i j hi hj heq
    obtain ⟨h1, h2, -⟩ := (pixAddr_inj hx (hds d hd) (by omega) (by omega)).1 heq
    exact hnot (Prod.ext h1 h2 ▸ hd)
  refine ⟨fun i d j hi hj => ?_, fun a ha => ?_⟩
  · cases i with
    | zero =>
      obtain rfl : xy = d := Option.some.inj hi
      rw [h.elsewhere _ fun d hd j' hj' => hne d hd j j' hj hj', Nat.add_zero, ← slot_frameTrip _ _ _ _ j hj]
      exact tripletWritten_channel hw hj
    | succ i =>
      have hd : d ∈ ds := List.mem_of_getElem? hi
      have hk : k + 1 + i = k + (i + 1) := by omega
      rw [h.channel i d j hi hj, hk, tripletWritten_other fun j' hj' => (hne d hd j' j hj' hj).symm]
  · obtain ⟨hxy, hrest⟩ := List.forall_mem_cons.1 ha
    rw [h.elsewhere a hrest, tripletWritten_other hxy]

end

/-! ## The triplet loop -/

/-- What the triplet loop makes of `s` when its requests are answered with `cs`, from triplet `k` on (rule R190 steps 4 to 7). -/
structure Embedded (payload : List Byte) (c : Word) (r k : Nat) (cs : List Coord) (s t : State) : Prop where
  written : Written s t
  empty : cs = [] → t = s
  count : t.seqCnt = s.seqCnt + cs.length
  last : ∀ xy, cs.getLast? = some xy → t.seqX = BitVec.ofNat 32 xy.1 ∧ t.seqY = BitVec.ofNat 32 xy.2 ∧
    t.trip = frameTrip payload c r (k + cs.length - 1) ∧ t.bitpos = min (3 * (k + cs.length)) r
  onward : ∀ n ds, coordsFrom (cs.length + n) s = some (cs ++ ds) → coordsFrom n t = some ds
  frame : s.pix.wf = true → cs.Nodup → FrameWritten payload c r s.width.toNat k cs s.pix t.pix

section
variable {payload : List Byte} {c : Word} {r n k : Nat} {cs : List Coord} {s t : State}

/-- Writing a triplet leaves the traversal where it stands. -/
theorem tripletWritten_agree (xy : Coord) (tr : Trip) (b : Nat) (s : State) : SeqAgree s (s.tripletWritten xy tr b) :=
  ⟨rfl, rfl, rfl, rfl, rfl, rfl, rfl⟩

theorem tripletWritten_written (xy : Coord) (tr : Trip) (b : Nat) (s : State) : Written s (s.tripletWritten xy tr b) := rfl

/-- One turn of the loop, and the turns after it. -/
theorem Embedded.cons {s1 : State} {xy : Coord} {ds : List Coord} (hs : seqNext s = .ok xy s1)
    (hin : ∀ d ∈ xy :: ds, d.1 < s.width.toNat)
    (h : Embedded payload c r (k + 1) ds (s1.tripletWritten xy (frameTrip payload c r k) (min (3 * k + 3) r)) t) :
    Embedded payload c r k (xy :: ds) s t := by
  have he := (seqNext_ok hs).rest
  have hpix : s1.pix = s.pix := by rw [he]
  have hwidth : s1.width = s.width := by rw [he]
  have hpulled : Written s s1 := by rw [Written, he]
  refine ⟨(hpulled.trans (tripletWritten_written ..)).trans h.written, nofun, ?_, fun d hd => ?_, fun n es hn => ?_,
    fun hw hnd => ?_⟩
  · rw [h.count, List.length_cons, Nat.add_comm ds.length, ← Nat.add_assoc]
    exact congrArg (· + ds.length) (by rw [State.tripletWritten, he])
  · cases ds with
    | nil =>
      obtain rfl : xy = d := Option.some.inj hd
      rw [h.empty rfl, State.tripletWritten, he]
      exact ⟨rfl, rfl, rfl, rfl⟩
    | cons x ds =>
      have hidx : k + 1 + (x :: ds).length = k + (xy :: x :: ds).length := by simp only [List.length_cons]; omega
      rw [← hidx]
      exact h.last d hd
  · rw [List.length_cons, Nat.add_right_comm] at hn
    obtain ⟨xy', s1', ds', hs', hrest, heq⟩ := coordsFrom_succ.1 hn
    rw [hs] at hs'
    cases hs'
    obtain rfl : ds ++ es = ds' := (List.cons.inj heq).2
    exact h.onward n es (coordsFrom_agree (tripletWritten_agree ..) hrest)
  · rw [← hpix] at hw
    rw [← hpix, ← hwidth]
    rw [← hwidth] at hin
    refine FrameWritten.cons hw hin hnd (h.frame ?_ (List.nodup_cons.1 hnd).2)
    exact muxPix_wf (s := { s1 with trip := _ }) hw

/-- The triplet loop completes where the traversal answers all its requests. -/
theorem embedLoop_of_coordsFrom (h : coordsFrom n s = some cs) (hl : s.Latched) :
    ∃ t, embedLoop payload c r n k s = .ok () t ∧ Embedded payload c r k cs s t := by
  induction n generalizing k s cs with
  | zero =>
    cases h
    exact ⟨s, rfl, .refl s, fun _ => rfl, rfl, nofun, fun n ds hn => by simpa using hn, fun _ _ => .nil⟩
  | succ n ih =>
    have hin := coordsFrom_inside h
    obtain ⟨xy, s1, ds, hs, hrest, rfl⟩ := coordsFrom_succ.1 h
    obtain ⟨hl1, hx, hy⟩ := (seqNext_ok hs).latched hl
    rw [embedLoop_succ hs hl1 hx hy]
    obtain ⟨t, ht, hE⟩ := ih (k := k + 1) (coordsFrom_agree (tripletWritten_agree ..) hrest) hl1
    exact ⟨t, ht, hE.cons hs fun d hd => hl.1 ▸ (hin d hd).1⟩

/-- The triplet loop completes only where the traversal answers all its requests. -/
theorem coordsFrom_of_embedLoop (h : embedLoop payload c r n k s = .ok () t) (hl : s.Latched) :
    ∃ cs, coordsFrom n s = some cs := by
  induction n generalizing k s with
  | zero => exact ⟨[], rfl⟩
  | succ n ih =>
    rcases seqNext_cases s with ⟨xy, s1, hs, he⟩ | ⟨-, hs⟩ | ⟨-, -, hs⟩
    · obtain ⟨hl1, hx, hy⟩ := he.latched hl
      rw [embedLoop_succ hs hl1 hx hy] at h
      obtain ⟨ds, hds⟩ := ih h hl1
      exact ⟨xy :: ds, coordsFrom_succ.2 ⟨xy, s1, ds, hs, coordsFrom_agree (tripletWritten_agree ..).symm hds, rfl⟩⟩
    · rw [embedLoop, hs] at h
      cases h
    · rw [embedLoop, hs] at h
      cases h

end

/-! ## EMBED past its checks -/

section
variable {s t : State} {m : Mode} {cs : List Coord}

theorem traversal_framed (m : Mode) (n : Nat) (s : State) : traversal m n (prologue s).framed = traversal m n s :=
  traversalDependsOnlyOnSeedSizeAndMode _ _ m n rfl rfl rfl rfl rfl

/-- The prologue touches nothing the conditions of EMBED read. -/
theorem embedFits_prologue : (prologue s).EmbedFits ↔ s.EmbedFits :=
  ⟨fun ⟨hd, hb, hc⟩ => ⟨hd, hb, hc⟩, fun ⟨hd, hb, hc⟩ => ⟨hd, hb, hc⟩⟩

/-- Completion is no part of the sequencer. -/
theorem completed_agree (s : State) : SeqAgree s { s with done := true } := ⟨rfl, rfl, rfl, rfl, rfl, rfl, rfl⟩

theorem exec_embed_of_fits (hr : s.run = .idle) (h : s.EmbedFits) :
    exec (.embed m) s = finish ((prologue s).writeFrame m) := by
  rw [exec_embed_of_idle hr, embedBody_of_fits (s := prologue s) (embedFits_prologue.2 h)]

/-- EMBED completes where its conditions hold and the traversal answers its requests (rules R190, R191). -/
theorem exec_embed_of_traversal (hr : s.run = .idle) (h : s.EmbedFits) (hcs : traversal m s.framePixels s = some cs) :
    ∃ t, exec (.embed m) s = .next { t with done := true } ∧
      Embedded (s.payload s.plen.toNat) (crc32 (s.payload s.plen.toNat)) (frameBits s.plen.toNat) 0 cs
        (seqInit m (prologue s).framed) t := by
  rw [← traversal_framed] at hcs
  obtain ⟨t, hloop, hE⟩ := embedLoop_of_coordsFrom hcs (latched_seqInit m h.dims)
  have hframe : (prologue s).writeFrame m = .ok () t := hloop
  exact ⟨t, by rw [exec_embed_of_fits hr h, hframe, finish_ok], hE⟩

/-- EMBED completes only there. -/
theorem traversal_of_embed_done (h : exec (.embed m) s = .next t) (hd : t.done = true) :
    s.run = .idle ∧ s.EmbedFits ∧ ∃ cs, traversal m s.framePixels s = some cs := by
  have hr : s.run = .idle := by
    by_contra hr
    rw [exec_of_not_accepted (by simpa [accepted] using hr)] at h
    cases h
    cases hd
  have hfits : s.EmbedFits := by
    by_contra hfits
    obtain ⟨e, u, hu⟩ := embedBody_of_not_fits (s := prologue s) (m := m) fun hf => hfits (embedFits_prologue.1 hf)
    rw [exec_embed_of_idle hr, hu, finish_raised] at h
    cases h
    cases hd
  refine ⟨hr, hfits, ?_⟩
  rw [exec_embed_of_fits hr hfits] at h
  rcases finish_eq_next.1 h with ⟨u, hu, -⟩ | ⟨e, u, -, rfl⟩ | hu
  · rw [← traversal_framed]
    exact coordsFrom_of_embedLoop hu (latched_seqInit m hfits.dims)
  · cases hd
  · have hends : ((prologue s).writeFrame m).Ends fun _ => _ :=
      embedLoop_ran _ _ _ _ _ (latched_seqInit (s := (prologue s).framed) m hfits.dims) (Nat.zero_le _)
    rw [hu] at hends
    exact hends.elim

/-! ### What EMBED reads is the host's to write -/

theorem payload_of_hostSide (h : t.hostSide = s.hostSide) :
    t.plen = s.plen ∧ t.width = s.width ∧ ∀ n, t.payload n = s.payload n := by
  simp only [State.hostSide, Prod.mk.injEq] at h
  obtain ⟨⟨-, hwidth, -, hplen, -⟩, hpbuf, -⟩ := h
  exact ⟨hplen, hwidth, fun n => by rw [State.payload, State.payload, hpbuf]⟩

theorem traversal_of_hostSide {n : Nat} (h : t.hostSide = s.hostSide) : traversal m n t = traversal m n s := by
  simp only [State.hostSide, Prod.mk.injEq] at h
  obtain ⟨⟨-, hwidth, hheight, -, -, hlo, hhi⟩, -, hcfg, -⟩ := h
  exact traversalDependsOnlyOnSeedSizeAndMode t s m n (congrArg Config.prng hcfg) hhi hlo hwidth hheight

theorem State.EmbedFits.of_hostSide (hf : s.EmbedFits) (h : t.hostSide = s.hostSide) : t.EmbedFits := by
  simp only [State.hostSide, Prod.mk.injEq] at h
  obtain ⟨⟨-, hwidth, hheight, hplen, -⟩, -, hcfg, -⟩ := h
  obtain ⟨hd, hb, hc⟩ := hf
  rw [← hplen, ← hwidth, ← hheight] at hc
  rw [← hplen, ← hcfg] at hb
  rw [State.DimsOk, ← hwidth, ← hheight, ← hcfg] at hd
  exact ⟨hd, hb, hc⟩

/-- The frame an EMBED that completes has left in PIX, the block idle again. -/
theorem frameWritten_of_embed (hr : s.run = .idle) (hf : s.EmbedFits) (hw : s.pix.wf = true)
    (hcs : traversal m s.framePixels s = some cs) (h : exec (.embed m) s = .next t) :
    t.run = .idle ∧ FrameWritten (s.payload s.plen.toNat) (crc32 (s.payload s.plen.toNat)) (frameBits s.plen.toNat)
      s.width.toNat 0 cs s.pix t.pix := by
  obtain ⟨u, hu, hE⟩ := exec_embed_of_traversal hr hf hcs
  rw [h] at hu
  cases hu
  exact ⟨(congrArg State.run hE.written :).trans hr, hE.frame hw (nodup_of_traversal hcs)⟩

/-- The pixels a frame needs are in an image that has room for its bits (rule R191). -/
theorem State.EmbedFits.pixels_le (h : s.EmbedFits) : s.framePixels ≤ s.width.toNat * s.height.toNat := by
  have hcap := h.capacity
  rw [Nat.mul_assoc] at hcap
  rw [State.framePixels, ceilDiv]
  omega

end

/-! ## The commands -/

/-- Slots are present below the frame's end only (rule R190). -/
theorem present_frameSlot (payload : List Byte) (c : Word) (r i : Nat) : (frameSlot payload c r i).present = decide (i < r) := by
  unfold frameSlot
  split_ifs with h
  · exact (decide_eq_true h).symm
  · exact (decide_eq_false h).symm

/-- The slots present in the last triplet of a frame, by the payload's length modulo 3 (rule R192). -/
theorem frameTrip_last_p (payload : List Byte) (c : Word) (l : Nat) :
    (frameTrip payload c (frameBits l) (ceilDiv (frameBits l) 3 - 1)).p =
      if l % 3 = 0 then 1#3 else if l % 3 = 1 then 7#3 else 3#3 := by
  obtain ⟨n, hn⟩ : ∃ n, ceilDiv (frameBits l) 3 = n + 1 := Nat.exists_eq_add_one.2 (by unfold ceilDiv frameBits; omega)
  have hr : frameBits l = 8 * l + 64 := by unfold frameBits; omega
  have hbounds : 3 * n < 8 * l + 64 ∧ 8 * l + 64 ≤ 3 * n + 3 := by unfold ceilDiv at hn; omega
  have h0 : 3 * n < 8 * l + 64 ↔ True := iff_true_intro hbounds.1
  have h1 : 3 * n + 1 < 8 * l + 64 ↔ l % 3 ≠ 0 := by omega
  have h2 : 3 * n + 2 < 8 * l + 64 ↔ l % 3 = 1 := by omega
  rw [hn, hr, Nat.add_sub_cancel]
  simp only [frameTrip, tripOfSlots, present_frameSlot, h0, h1, h2]
  have hl : l % 3 < 3 := Nat.mod_lt l (by decide)
  generalize l % 3 = i at hl
  revert i
  decide

/-- Settles O41: the Sequential traversal answers as many requests as the image has pixels. -/
theorem sequentialEmbedCompletesExactlyWithinCapacity : Obligations.SequentialEmbedCompletesExactlyWithinCapacity := by
  intro s hr hd hb
  by_cases hc : frameBits s.plen.toNat ≤ 3 * s.width.toNat * s.height.toNat
  · have hfits : s.EmbedFits := ⟨hd, hb, hc⟩
    obtain ⟨t, ht, -⟩ := exec_embed_of_traversal hr hfits (traversal_seq_eq hfits.pixels_le)
    exact ⟨_, ht, iff_of_true rfl hc, nofun⟩
  · obtain ⟨-, -, hover⟩ := embedErrorsLeavePixAndSequencerAlone s .seq hr
    exact ⟨_, hover hd hb (Nat.lt_of_not_le hc), iff_of_false nofun hc, fun _ => ⟨rfl, rfl⟩⟩

/-- Settles O40: the registers are those the loop's last turn leaves, and PIX holds the frame. -/
theorem embedCompletesWithTheFrameInPix : Obligations.EmbedCompletesWithTheFrameInPix := by
  intro s m cs l r p hr hd hw hb hc ht
  obtain ⟨t, hexec, hE⟩ := exec_embed_of_traversal hr ⟨hd, hb, hc⟩ ht
  have hlen : cs.length = ceilDiv r 3 := length_of_coordsFrom ht
  have hpos : 0 < ceilDiv r 3 := by simp only [ceilDiv, r]; omega
  have hframe : FrameWritten p (crc32 p) r s.width.toNat 0 cs s.pix t.pix := hE.frame hw (nodup_of_traversal ht)
  have hwritten := hE.written
  obtain ⟨-, -, htrip, hbitpos⟩ := hE.last _ (List.getLast?_eq_some_getLast (List.ne_nil_of_length_pos (hlen ▸ hpos)))
  rw [hlen, Nat.zero_add] at htrip hbitpos
  refine ⟨_, hexec, rfl, (congrArg State.err hwritten :), (congrArg State.errcode hwritten :),
    (congrArg State.run hwritten :).trans hr, (congrArg State.rvalid hwritten :), (congrArg State.crcok hwritten :),
    (congrArg State.smode hwritten :), (congrArg State.flen hwritten :), ?crc, ?bitpos, ?count, ?coordinate, ?trip,
    (congrArg State.sw hwritten :), (congrArg State.sh hwritten :), ?onward, (congrArg State.crcExp hwritten :),
    (congrArg State.rbuf hwritten :), (congrArg State.pbuf hwritten :), ?bits, ?high, ?rest⟩
  case crc => exact congrArg (· ^^^ 0xFFFFFFFF#32) (congrArg State.crcAcc hwritten :)
  case bitpos => exact hbitpos.trans (Nat.min_eq_right (le_mul_ceilDiv r (by decide)))
  case count => exact hE.count.trans ((Nat.zero_add _).trans hlen)
  case coordinate =>
    intro x y hxy
    obtain ⟨hx, hy, -⟩ := hE.last _ hxy
    exact ⟨hx, hy⟩
  case trip => exact (congrArg Trip.p htrip).trans (frameTrip_last_p p _ l)
  case onward =>
    intro k ds hds
    rw [← hlen, ← traversal_framed] at hds
    exact coordsFrom_agree (completed_agree t) (hE.onward k ds hds)
  case bits => exact fun i hi x y hxy => (hframe.lsb hi hxy :)
  case high => exact fun a => ((exec_colour hexec hw).2 a).1
  case rest => exact fun a ha => hframe.kept fun i xy hi hxy => ha i hi xy.1 xy.2 hxy

/-- Settles O43: the second EMBED has the same conditions, frame and traversal, so it stores the same bits in the same channels. -/
theorem embedTwiceLeavesPixAsAfterTheFirst : Obligations.EmbedTwiceLeavesPixAsAfterTheFirst := by
  intro s t m hw h hd
  obtain ⟨hr, hf, cs, hcs⟩ := traversal_of_embed_done h hd
  obtain ⟨hrt, hfirst⟩ := frameWritten_of_embed hr hf hw hcs h
  have hside := (exec_writes h).hostSide
  have hft := hf.of_hostSide hside
  obtain ⟨hplen, hwidth, hpayload⟩ := payload_of_hostSide hside
  rw [← hplen, ← hwidth, ← hpayload] at hfirst
  rw [State.framePixels, ← hplen, ← traversal_of_hostSide hside] at hcs
  obtain ⟨u, hu, -⟩ := exec_embed_of_traversal hrt hft hcs
  have hwt : t.pix.wf = true := (exec_colour h hw).1
  have hwu := (exec_colour hu hwt).1
  obtain ⟨-, hsecond⟩ := frameWritten_of_embed hrt hft hwt hcs hu
  exact ⟨_, hu, rfl, Memory.eq_of_read hwu hwt (hfirst.read_again hsecond)⟩

end Sys2Proof.Machine
end

section
/-! SUPPORT. EXTRACT as a reader of bits (spec/46_extract.md rules R200, R201, R203): the bits a state's pulls will give, what a
field, the payload loop and the tail make of them, and where they end when the pixels run out first. -/

namespace Sys2Proof.Machine

/-! ## The bits still to be pulled -/

/-- The data bits of the pixel in `TRIP` that are still to be pulled (rule R200). -/
def State.heldBits (s : State) : List Bool :=
  (List.range' (s.bitpos % 3) ((3 - s.bitpos % 3) % 3)).map fun k => s.trip.v.getLsbD k

/-- `SEQ_X`, `SEQ_Y` and `TRIP` are those of the pixel at `xy` (rules R162, R177). -/
def State.Shows (s : State) (xy : Coord) : Prop :=
  s.seqX = BitVec.ofNat 32 xy.1 ∧ s.seqY = BitVec.ofNat 32 xy.2 ∧ s.trip = s.tripAt xy

/-- The next pulls give `bits`: the rest of the pixel in `TRIP`, then the pixels of a traversal that goes on answering. If `z` names
the last of these pixels, the state shows it once it is read. -/
structure State.Feeds (s : State) (z : Option Coord) (bits : List Bool) : Prop where
  latched : s.Latched
  inStep : s.InStep
  source : ∃ cs, coordsFrom cs.length s = some cs ∧ bits = s.heldBits ++ s.sourceBits cs ∧
    ∀ xy, z = some xy → cs.getLast? = some xy ∨ (cs = [] ∧ s.Shows xy)

/-- Every bit of the image has been pulled (rule R211 (a)). -/
structure State.AtEnd (s : State) : Prop where
  bitpos : s.bitpos = 3 * (s.width.toNat * s.height.toNat)
  count : s.seqCnt = s.width.toNat * s.height.toNat

section
variable {s t : State} {z : Option Coord} {b : Bool} {bits : List Bool} {xy : Coord} {cs : List Coord}

theorem heldBits_of_third (h : s.bitpos % 3 = 0) : s.heldBits = [] := by
  simp [State.heldBits, h]

theorem heldBits_pull (h : s.bitpos % 3 ≠ 0) :
    s.heldBits = s.trip.v.getLsbD (s.bitpos % 3) :: State.heldBits { s with bitpos := s.bitpos + 1 } := by
  obtain hm | hm : s.bitpos % 3 = 1 ∨ s.bitpos % 3 = 2 := by omega
  · have hm' : (s.bitpos + 1) % 3 = 2 := by omega
    simp only [State.heldBits, hm, hm', List.range'_succ, List.map_cons]
  · have hm' : (s.bitpos + 1) % 3 = 0 := by omega
    simp only [State.heldBits, hm, hm', List.range'_succ, List.map_cons]
    rfl

/-- After the first bit of a pixel its other two are held. -/
theorem heldBits_of_first (h : s.bitpos % 3 = 1) (ht : s.trip = s.tripAt xy) : s.heldBits = [s.lsbAt xy 1, s.lsbAt xy 2] := by
  have h1 := s.tripAt_v xy (k := 1) (by decide)
  have h2 := s.tripAt_v xy (k := 2) (by decide)
  rw [← h1, ← h2, State.heldBits, h, ht]
  rfl

theorem length_sourceBits (s : State) (cs : List Coord) : (s.sourceBits cs).length = 3 * cs.length := by
  simp [State.sourceBits, List.length_flatMap, Nat.mul_comm]

theorem Pulled.sourceBits (h : Pulled s t) (cs : List Coord) : t.sourceBits cs = s.sourceBits cs := by
  rw [h]
  rfl

theorem Pulled.latched (h : Pulled s t) (hl : s.Latched) : t.Latched := by
  rw [h]
  exact hl

/-- A pull that gives a bit moves the cursor by one and keeps the traversal in step. -/
theorem pulls_of_pullBit (h : pullBit s = .ok b t) : Pulls s t ∧ t.bitpos = s.bitpos + 1 := by
  have hsat := pullBit_sat s
  rwa [h] at hsat

/-- `pullBit_fresh` leaves a state that shows the pixel, its other two bits held. -/
theorem pullBit_shows (hm : s.bitpos % 3 = 0) (hs : seqNext s = .ok xy t) (hl : s.Latched) :
    ∃ u, pullBit s = .ok (s.lsbAt xy 0) u ∧ SeqAgree t u ∧ u.Shows xy ∧ u.heldBits = [s.lsbAt xy 1, s.lsbAt xy 2] := by
  obtain ⟨hsw, hsh, hfit⟩ := hl
  have hpull := pullBit_fresh hm hs hsw hsh hfit
  have hrest := (seqNext_ok hs).rest
  refine ⟨_, hpull, ⟨rfl, rfl, rfl, rfl, rfl, rfl, rfl⟩, ?_, ?_⟩
  · rw [hrest]
    exact ⟨rfl, rfl, rfl⟩
  · have hmod : (s.bitpos + 1) % 3 = 1 := by omega
    rw [heldBits_of_first (xy := xy) hmod] <;> rw [hrest] <;> rfl

theorem State.Feeds.pullBit (h : s.Feeds z (b :: bits)) : ∃ t, pullBit s = .ok b t ∧ t.Feeds z bits := by
  obtain ⟨hl, hi, cs, hcs, hbits, hlast⟩ := h
  by_cases hm : s.bitpos % 3 = 0
  · rw [heldBits_of_third hm] at hbits
    cases cs with
    | nil => cases hbits
    | cons xy ds =>
      cases hbits
      obtain ⟨xy', t, ds', hs, hds, heq⟩ := coordsFrom_succ.1 hcs
      cases heq
      obtain ⟨u, hpull, hagree, hshows, hheld⟩ := pullBit_shows hm hs hl
      obtain ⟨hpulls, -⟩ := pulls_of_pullBit hpull
      refine ⟨u, hpull, hpulls.frame.latched hl, hpulls.inStep hi, ds, coordsFrom_agree hagree hds, ?_, fun d hd => ?_⟩
      · rw [hheld, hpulls.frame.sourceBits]
        rfl
      · obtain hd | ⟨hd, -⟩ := hlast d hd
        · cases ds with
          | nil =>
            cases hd
            exact .inr ⟨rfl, hshows⟩
          | cons x ds => exact .inl hd
        · cases hd
  · rw [heldBits_pull hm, List.cons_append] at hbits
    cases hbits
    have hpull := pullBit_held hm
    obtain ⟨hpulls, -⟩ := pulls_of_pullBit hpull
    have hagree : SeqAgree s { s with bitpos := s.bitpos + 1 } := ⟨rfl, rfl, rfl, rfl, rfl, rfl, rfl⟩
    exact ⟨_, hpull, hl, hpulls.inStep hi, cs, coordsFrom_agree hagree hcs, rfl, hlast⟩

/-- Changes to the fields that pulling bits does not read leave the bits to come. -/
theorem State.Feeds.congr (h : s.Feeds z bits)
    (ht : t = { s with run := t.run, done := t.done, err := t.err, errcode := t.errcode, flen := t.flen, rbuf := t.rbuf,
                       crcAcc := t.crcAcc, crcExp := t.crcExp, crcok := t.crcok, rvalid := t.rvalid }) : t.Feeds z bits := by
  obtain ⟨hl, hi, cs, hcs, hbits, hlast⟩ := h
  rw [ht]
  exact ⟨hl, hi, cs, coordsFrom_agree (s := s) ⟨rfl, rfl, rfl, rfl, rfl, rfl, rfl⟩ hcs, hbits, hlast⟩

/-- When fewer bits are left than a pixel gives, the last pixel is in the registers. -/
theorem State.Feeds.shows (h : s.Feeds (some xy) bits) (hlt : bits.length < 3) : s.Shows xy := by
  obtain ⟨hl, hi, cs, -, rfl, hlast⟩ := h
  obtain hd | ⟨-, hd⟩ := hlast xy rfl
  · cases cs with
    | nil => cases hd
    | cons x cs =>
      rw [List.length_append, length_sourceBits, List.length_cons] at hlt
      omega
  · exact hd

/-- Where the traversal has been read to its end the next pull raises `SeqExhausted` (rules R162, R200). -/
theorem pullBit_at_end (hl : s.Latched) (hi : s.InStep) (hb : s.bitpos = 3 * (s.width.toNat * s.height.toNat)) :
    pullBit s = .raised .seqExhausted s ∧ s.AtEnd := by
  have hcnt : s.seqCnt = s.width.toNat * s.height.toNat := by
    have hcnt := hi.1
    omega
  refine ⟨pullBit_exhausted (by omega) ?_, hb, hcnt⟩
  rw [hl.1, hl.2.1, hcnt]

/-! ## Fields -/

/-- A field of `n` bits takes the next `n` (rule R201). -/
theorem State.Feeds.pullBits {n : Nat} (v : Nat) (h : s.Feeds z bits) (hn : n ≤ bits.length) :
    ∃ t, pullBits n v s = .ok ((bits.take n).foldl (fun v b => 2 * v + b.toNat) v) t ∧ t.Feeds z (bits.drop n) := by
  induction n generalizing v s bits with
  | zero => exact ⟨s, rfl, h⟩
  | succ n ih =>
    cases bits with
    | nil => cases hn
    | cons b bits =>
      obtain ⟨t, hpull, ht⟩ := h.pullBit
      obtain ⟨u, hrest, hu⟩ := ih (2 * v + b.toNat) ht (Nat.le_of_succ_le_succ hn)
      exact ⟨u, by rw [Machine.pullBits, hpull]; exact hrest, hu⟩

theorem State.Feeds.pullField {n : Nat} (h : s.Feeds z bits) (hn : n ≤ bits.length) :
    ∃ t, pullField n s = .ok (bytesOf (bits.take n)) t ∧ Pulls s t ∧ t.bitpos = s.bitpos + n ∧ t.Feeds z (bits.drop n) := by
  obtain ⟨t, hpull, ht⟩ := h.pullBits 0 hn
  have hsat := pullField_sat n s
  rw [Machine.pullField, hpull] at hsat
  exact ⟨t, hpull, hsat.1, hsat.2, ht⟩

/-- The bits a state gives are the last ones of the image. -/
def State.Last (s : State) (bits : List Bool) : Prop := s.bitpos + bits.length = 3 * (s.width.toNat * s.height.toNat)

theorem State.Last.drop {n : Nat} (hl : s.Last bits) (h : Ran s t) (hb : t.bitpos = s.bitpos + n) (hn : n ≤ bits.length) :
    t.Last (bits.drop n) := by
  have hw : t.width = s.width := by rw [h.frame]
  have hh : t.height = s.height := by rw [h.frame]
  unfold State.Last at *
  rw [hw, hh, hb, List.length_drop]
  omega

/-- A field that needs more bits than the image has left ends in `SeqExhausted`, every bit pulled (rule R211 (a)). -/
theorem State.Feeds.pullBits_exhausted {n : Nat} (v : Nat) (h : s.Feeds z bits) (hl : s.Last bits) (hn : bits.length < n) :
    ∃ t, Machine.pullBits n v s = .raised .seqExhausted t ∧ t.AtEnd := by
  induction n generalizing v s bits with
  | zero => cases hn
  | succ n ih =>
    cases bits with
    | nil =>
      obtain ⟨hpull, hend⟩ := pullBit_at_end h.latched h.inStep hl
      exact ⟨s, by rw [Machine.pullBits, hpull]; rfl, hend⟩
    | cons b bits =>
      obtain ⟨t, hpull, ht⟩ := h.pullBit
      obtain ⟨hpulls, hb⟩ := pulls_of_pullBit hpull
      obtain ⟨u, hrest, hu⟩ := ih (2 * v + b.toNat) ht (hl.drop hpulls.ran hb (by simp)) (Nat.lt_of_succ_lt_succ hn)
      exact ⟨u, by rw [Machine.pullBits, hpull]; exact hrest, hu⟩

theorem State.Feeds.pullField_exhausted {n : Nat} (h : s.Feeds z bits) (hl : s.Last bits) (hn : bits.length < n) :
    ∃ t, Machine.pullField n s = .raised .seqExhausted t ∧ Pulls s t ∧ t.AtEnd := by
  obtain ⟨t, hpull, hend⟩ := h.pullBits_exhausted 0 hl hn
  have hsat := pullField_sat n s
  rw [Machine.pullField, hpull] at hsat
  exact ⟨t, hpull, hsat.1, hend⟩

end

/-! ## The payload loop and the tail -/

theorem streamBytes_succ (bits : List Bool) (n : Nat) :
    streamBytes bits (n + 1) = BitVec.ofNat 8 (bytesOf (bits.take 8)) :: streamBytes (bits.drop 8) n := by
  simp [streamBytes, List.range_succ_eq_map, Nat.mul_add, Nat.add_comm]

/-- What the tail has done of a state that gives `bits` before it compares: the payload of `FLEN` bytes is in RBUF and folded, and
the trailer is pulled (rule R203 steps 5, 6). -/
structure TailRead (z : Option Coord) (bits : List Bool) (s t : State) : Prop where
  ran : Ran s t
  pix : t.pix = s.pix
  bitpos : t.bitpos = s.bitpos + 8 * s.flen.toNat + 32
  feeds : t.Feeds z (bits.drop (8 * s.flen.toNat + 32))
  bytes : s.rbuf.wf = true → t.recovered s.flen.toNat = streamBytes bits s.flen.toNat
  folded : s.rbuf.wf = true → t.crcAcc = crcFold s.crcAcc (streamBytes bits s.flen.toNat)

section
variable {s t : State} {z : Option Coord} {bits : List Bool}

/-- The payload loop stores the next `n` bytes (rule R203 step 5). -/
theorem State.Feeds.extractPayload {n j : Nat} (h : s.Feeds z bits) (hn : 8 * n ≤ bits.length) (hj : j + n ≤ s.cfg.rbufSize) :
    ∃ t, extractPayload n j s = .ok () t ∧ t.Feeds z (bits.drop (8 * n)) ∧
      (s.rbuf.wf = true → (List.range' j n).map t.rbuf.read = streamBytes bits n) := by
  induction n generalizing j s bits with
  | zero => exact ⟨s, rfl, h, fun _ => rfl⟩
  | succ n ih =>
    obtain ⟨t, hpull, hpulls, hb, ht⟩ := h.pullField (n := 8) (by omega)
    have hcfg : t.cfg = s.cfg := by rw [hpulls.frame]
    have hrbuf : t.rbuf = s.rbuf := by rw [hpulls.frame]
    have hroom : j + 1 + n ≤ t.cfg.rbufSize := by rw [hcfg]; omega
    obtain ⟨u, hrest, hu, hbytes⟩ := ih (j := j + 1) (s := t.stored j (BitVec.ofNat 8 (bytesOf (bits.take 8))))
      (ht.congr rfl) (by rw [List.length_drop]; omega) hroom
    refine ⟨u, ?_, ?_, fun hwf => ?_⟩
    · rw [extractPayload_succ, hpull, andThen_ok, if_pos (by rw [hcfg]; omega), hrest]
    · rwa [List.drop_drop, Nat.add_comm, ← Nat.mul_succ] at hu
    · have hout := extractPayload_outside n (j + 1) (t.stored j (BitVec.ofNat 8 (bytesOf (bits.take 8))))
      rw [hrest] at hout
      rw [← hrbuf] at hwf
      rw [List.range'_succ, List.map_cons, hbytes (Memory.wf_write hwf), hout j (.inl (Nat.lt_succ_self j)), streamBytes_succ]
      exact congrArg (· :: _) (Memory.read_write_same hwf)

theorem State.Feeds.extractPayload_exhausted {n j : Nat} (h : s.Feeds z bits) (hl : s.Last bits) (hn : bits.length < 8 * n)
    (hj : j + n ≤ s.cfg.rbufSize) : ∃ t, Machine.extractPayload n j s = .raised .seqExhausted t ∧ t.AtEnd := by
  induction n generalizing j s bits with
  | zero => cases hn
  | succ n ih =>
    rw [extractPayload_succ]
    rcases Nat.lt_or_ge bits.length 8 with h8 | h8
    · obtain ⟨t, hpull, -, hend⟩ := h.pullField_exhausted hl h8
      exact ⟨t, by rw [hpull]; rfl, hend⟩
    · obtain ⟨t, hpull, hpulls, hb, ht⟩ := h.pullField h8
      have hcfg : t.cfg = s.cfg := by rw [hpulls.frame]
      have hroom : j + 1 + n ≤ t.cfg.rbufSize := by rw [hcfg]; omega
      have hstore : j < t.cfg.rbufSize := by omega
      rw [hpull, andThen_ok, if_pos hstore]
      exact ih (ht.congr rfl) (hl.drop (hpulls.ran.trans (Ran.stored hstore)) hb h8) (by rw [List.length_drop]; omega) hroom

theorem extractTail_of_le (h : s.flen.toNat ≤ s.cfg.rbufSize) :
    extractTail s = (extractPayload s.flen.toNat 0 s).andThen fun _ s1 =>
      (pullField 32 s1).andThen fun v s2 => extractVerify { s2 with crcExp := BitVec.ofNat 32 v } := if_neg (Nat.not_lt.2 h)

/-- The tail comes to its comparison where there are bits enough for payload and trailer (rule R203). -/
theorem State.Feeds.extractTail (h : s.Feeds z bits) (hroom : s.flen.toNat ≤ s.cfg.rbufSize)
    (hn : 8 * s.flen.toNat + 32 ≤ bits.length) :
    ∃ t, extractTail s = extractVerify { t with crcExp := streamTrailer bits s.flen.toNat } ∧ TailRead z bits s t := by
  obtain ⟨t, hpay, ht, hbytes⟩ := h.extractPayload (j := 0) (n := s.flen.toNat) (by omega) (by omega)
  obtain ⟨u, hpull, hpulls, hb, hu⟩ := ht.pullField (n := 32) (by rw [List.length_drop]; omega)
  have hsat := extractPayload_sat s.flen.toNat 0 s
  rw [hpay] at hsat
  obtain ⟨hran, hbt, hfold⟩ := hsat
  have htailed := extractPayload_tailed s.flen.toNat 0 s
  rw [hpay] at htailed
  have hpix : u.pix = s.pix := (congrArg State.pix (htailed.trans hpulls.frame.tailed) :)
  have hacc : u.crcAcc = t.crcAcc := by rw [hpulls.frame]
  have hrbuf : u.rbuf = t.rbuf := by rw [hpulls.frame]
  refine ⟨u, ?_, hran.trans hpulls.ran, hpix, by omega, by rwa [List.drop_drop] at hu, fun hwf => ?_, fun hwf => ?_⟩
  · rw [extractTail_of_le hroom, hpay, andThen_ok, hpull]
    rfl
  · rw [State.recovered, hrbuf, List.range_eq_range', hbytes hwf]
  · rw [hacc, hfold hwf, hbytes hwf]

theorem State.Feeds.extractTail_exhausted (h : s.Feeds z bits) (hl : s.Last bits) (hroom : s.flen.toNat ≤ s.cfg.rbufSize)
    (hn : bits.length < 8 * s.flen.toNat + 32) :
    ∃ t, Machine.extractTail s = .raised .seqExhausted t ∧ Ran s t ∧ t.AtEnd := by
  rw [extractTail_of_le hroom]
  have hsat := extractPayload_sat s.flen.toNat 0 s
  rcases Nat.lt_or_ge bits.length (8 * s.flen.toNat) with hlt | hge
  · obtain ⟨t, hpay, hend⟩ := h.extractPayload_exhausted (j := 0) hl hlt (by omega)
    rw [hpay] at hsat ⊢
    exact ⟨t, rfl, hsat.1, hend⟩
  · obtain ⟨t, hpay, ht, -⟩ := h.extractPayload (j := 0) hge (by omega)
    rw [hpay] at hsat ⊢
    obtain ⟨hran, hbt, -⟩ := hsat
    obtain ⟨u, hpull, hpulls, hend⟩ := ht.pullField_exhausted (n := 32) (hl.drop hran hbt hge) (by rw [List.length_drop]; omega)
    exact ⟨u, by rw [andThen_ok, hpull]; rfl, hran.trans hpulls.ran, hend⟩

end
end Sys2Proof.Machine
end

section
/-! SUPPORT. EXTRACT, GATE_YES and GATE_NO (spec/46_extract.md rules R202 to R206): the length field and the gate, what the tail
delivers, and the obligations of the three commands. -/

namespace Sys2Proof.Machine

/-! ## The length field -/

theorem foldl_bits_lt (bits : List Bool) (v : Nat) :
    bits.foldl (fun v b => 2 * v + b.toNat) v < (v + 1) * 2 ^ bits.length := by
  induction bits generalizing v with
  | nil => simp
  | cons b bits ih =>
    have hb := b.toNat_le
    calc bits.foldl (fun v b => 2 * v + b.toNat) (2 * v + b.toNat)
      _ < (2 * v + b.toNat + 1) * 2 ^ bits.length := ih _
      _ ≤ (2 * (v + 1)) * 2 ^ bits.length := Nat.mul_le_mul_right _ (by omega)
      _ = (v + 1) * 2 ^ (bits.length + 1) := by rw [Nat.pow_succ']; ac_rfl

/-- A length fits `FLEN` (rule R38). -/
theorem streamLength_lt (bits : List Bool) : streamLength bits < 2 ^ 32 := by
  have hlen : (bits.take 32).length ≤ 32 := List.length_take_le ..
  calc streamLength bits
    _ < (0 + 1) * 2 ^ (bits.take 32).length := foldl_bits_lt _ 0
    _ ≤ 2 ^ 32 := by rw [Nat.zero_add, Nat.one_mul]; exact Nat.pow_le_pow_right (by decide) hlen

/-- The state in which EXTRACT begins to pull bits (rules R190, R202, R227). -/
def State.opened (m : Mode) (s : State) : State := seqInit m (macroPrologue (prologue s))

/-- Where an extraction stands after the length field, with `bits` to come: nothing folded, no outcome yet, nothing readable
(rules R202, R204). -/
structure State.LengthRead (s : State) (z : Option Coord) (bits : List Bool) : Prop where
  feeds : s.Feeds z bits
  bitpos : s.bitpos = 32
  crcAcc : s.crcAcc = 0xFFFFFFFF#32
  run : s.run = .idle
  outcome : s.done = false ∧ s.err = false ∧ s.errcode = 0x00#8
  unread : s.rvalid = false ∧ s.crcok = false

section
variable {s t : State} {m : Mode} {n : Nat} {cs : List Coord}

theorem exec_extract_of_idle (hr : s.run = .idle) : exec (.extract m) s = finish (extractBody m (prologue s)) :=
  exec_of_idle (.extract m) nofun nofun rfl hr

theorem exec_extract_of_dims (hr : s.run = .idle) (hd : s.DimsOk) :
    exec (.extract m) s =
      finish ((pullField 32 (s.opened m)).andThen fun l t => extractGate { t with flen := BitVec.ofNat 32 l }) := by
  rw [exec_extract_of_idle hr, extractBody, checkDims_of_ok (s := macroPrologue (prologue s)) hd]
  rfl

theorem exec_extract_of_not_dims (hr : s.run = .idle) (hd : ¬ s.DimsOk) :
    exec (.extract m) s = .next (raiseError .badDimensions (macroPrologue (prologue s))) := by
  rw [exec_extract_of_idle hr, extractBody, checkDims_of_not (s := macroPrologue (prologue s)) hd]
  rfl

/-- EXTRACT reads the bits of its traversal's pixels (rule R200). -/
theorem feeds_opened (hd : s.DimsOk) (ht : traversal m n s = some cs) : (s.opened m).Feeds cs.getLast? (s.sourceBits cs) := by
  have hn := length_of_coordsFrom ht
  refine ⟨latched_seqInit m hd, ⟨by simp [State.opened], fun h => absurd rfl h⟩, cs, ?_, ?_, fun xy h => .inl h⟩
  · rw [hn]
    exact coordsFrom_agree (s := seqInit m s) ⟨rfl, rfl, rfl, rfl, rfl, rfl, rfl⟩ ht
  · rw [heldBits_of_third rfl]
    rfl

/-- EXTRACT comes to the gate where the traversal answers the requests of the length field (rule R202). -/
theorem exec_extract_of_traversal (hr : s.run = .idle) (hd : s.DimsOk) (ht : traversal m n s = some cs) (hn : 11 ≤ n) :
    ∃ t, exec (.extract m) s = finish (extractGate t) ∧ t.LengthRead cs.getLast? ((s.sourceBits cs).drop 32) ∧
      t.flen.toNat = streamLength (s.sourceBits cs) ∧ Pulled { s.opened m with flen := t.flen } t := by
  have hlen := length_sourceBits s cs
  rw [length_of_coordsFrom ht] at hlen
  obtain ⟨t, hpull, hpulls, hb, hfeeds⟩ := (feeds_opened hd ht).pullField (n := 32) (by omega)
  have hframe := hpulls.frame
  refine ⟨{ t with flen := BitVec.ofNat 32 (streamLength (s.sourceBits cs)) }, ?_,
    ⟨hfeeds.congr rfl, hb, (congrArg State.crcAcc hframe :), (congrArg State.run hframe :).trans hr, ?_, ?_⟩, ?_, ?_⟩
  · rw [exec_extract_of_dims hr hd, hpull]
    rfl
  · exact ⟨(congrArg State.done hframe :), (congrArg State.err hframe :), (congrArg State.errcode hframe :)⟩
  · exact ⟨(congrArg State.rvalid hframe :), (congrArg State.crcok hframe :)⟩
  · exact (BitVec.toNat_ofNat ..).trans (Nat.mod_eq_of_lt (streamLength_lt _))
  · rw [Pulled, hframe]

/-- The triplet of the pixel shown, in the words of the statements (rules R35, R177). -/
theorem State.Shows.triplet {xy : Coord} (h : t.Shows xy) (hpix : t.pix = s.pix) (hw : t.width = s.width) :
    t.trip.p = 7#3 ∧ ∀ k, k < 3 → t.trip.v.getLsbD k = s.lsbAt xy k := by
  obtain ⟨-, -, htrip⟩ := h
  rw [htrip]
  refine ⟨t.tripAt_p xy, fun k hk => (t.tripAt_v xy hk).trans ?_⟩
  rw [State.lsbAt, State.lsbAt, State.pixAddr, State.pixAddr, hpix, hw]

/-! ## The gate -/

theorem extractGate_of_fires (he : s.gateEn = true) (ht : s.gateThr.toNat < s.flen.toNat) :
    extractGate s = .suspended { s with run := .gatewait } := if_pos (by simp [State.gateFires, he, ht])

theorem extractGate_of_passes (h : s.gateEn = false ∨ s.flen.toNat ≤ s.gateThr.toNat) : extractGate s = extractTail s := by
  refine if_neg ?_
  rw [State.gateFires, Bool.and_eq_true, decide_eq_true_eq]
  rintro ⟨he, ht⟩
  rcases h with h | h
  · rw [h] at he
    cases he
  · omega

theorem extractTail_of_lt (h : s.cfg.rbufSize < s.flen.toNat) : extractTail s = .raised .bufferRange s := if_pos h

/-- EXTRACT goes on with the tail where the gate does not fire (rules R202, R204). -/
theorem exec_extract_ungated (hr : s.run = .idle) (hd : s.DimsOk) (ht : traversal m n s = some cs) (hn : 11 ≤ n)
    (hg : s.gateEn = false ∨ streamLength (s.sourceBits cs) ≤ s.gateThr.toNat) :
    ∃ t, exec (.extract m) s = finish (extractTail t) ∧ t.LengthRead cs.getLast? ((s.sourceBits cs).drop 32) ∧
      t.flen.toNat = streamLength (s.sourceBits cs) ∧ Pulled { s.opened m with flen := t.flen } t := by
  obtain ⟨t, hexec, hread, hflen, hframe⟩ := exec_extract_of_traversal hr hd ht hn
  have hen : t.gateEn = s.gateEn := (congrArg State.gateEn hframe :)
  have hthr : t.gateThr = s.gateThr := (congrArg State.gateThr hframe :)
  rw [extractGate_of_passes (by rwa [hen, hthr, hflen])] at hexec
  exact ⟨t, hexec, hread, hflen, hframe⟩

theorem exec_gateYes_of_gatewait (hr : s.run = .gatewait) :
    exec .gateYes s = finish (extractTail { prologue s with run := .idle }) := by
  rw [exec_eq_runCommand (i := .gateYes) nofun nofun, runCommand_of_accepted (by rw [hr]; rfl)]
  rfl

/-- GATE_YES finds the bit that `TRIP` holds, then those of the pixels to come (rule R205). -/
theorem State.Inv.lengthRead (hs : s.Inv) (hr : s.run = .gatewait) (hcs : coordsFrom n s = some cs) :
    State.LengthRead { prologue s with run := .idle } none (s.trip.v.getLsbD 2 :: s.sourceBits cs) := by
  obtain ⟨hb, hcnt, hacc, hp, hk, -⟩ := hs.gate_at hr
  obtain ⟨-, -, hv⟩ := hs.gate_flags hr
  have hstep : s.InStep := ⟨by rw [hcnt, hb], fun _ => hp⟩
  have hheld : s.heldBits = [s.trip.v.getLsbD 2] := by
    rw [State.heldBits, hb]
    rfl
  have hfeeds : s.Feeds none (s.trip.v.getLsbD 2 :: s.sourceBits cs) :=
    ⟨hs.latched hr, hstep, cs, by rwa [length_of_coordsFrom hcs], by rw [hheld]; rfl, nofun⟩
  exact ⟨hfeeds.congr rfl, hb, hacc, rfl, ⟨rfl, rfl, rfl⟩, hv, hk⟩

end

/-! ## What the tail delivers -/

theorem extractVerify_of_eq {s : State} (h : s.crcVal = s.crcExp) :
    extractVerify s = .ok () { s with crcok := true, rvalid := true } := by
  have hb : (s.crcVal == s.crcExp) = true := beq_iff_eq.2 h
  rw [extractVerify, compareCrc, hb]
  rfl

theorem extractVerify_of_ne {s : State} (h : s.crcVal ≠ s.crcExp) :
    extractVerify s = .raised .integrityMismatch { s with crcok := false } := by
  have hb : (s.crcVal == s.crcExp) = false := beq_eq_false_iff_ne.2 h
  rw [extractVerify, compareCrc, hb]
  rfl

/-- The end of an extraction from `s`, whose length is read, to `t`: its bytes are in RBUF, and they are readable exactly where the
trailer is their CRC-32 (rules R203, R208). -/
structure Delivered (z : Option Coord) (bits : List Bool) (s t : State) : Prop where
  verified : streamTrailer bits s.flen.toNat = crc32 (streamBytes bits s.flen.toNat) →
    t.done = true ∧ t.err = false ∧ t.errcode = 0x00#8 ∧ t.rvalid = true ∧ t.crcok = true
  mismatch : streamTrailer bits s.flen.toNat ≠ crc32 (streamBytes bits s.flen.toNat) →
    t.done = false ∧ t.err = true ∧ t.errcode = 2#8 ∧ t.rvalid = false ∧ t.crcok = false
  run : t.run = .idle
  smode : t.smode = s.smode
  flen : t.flen = s.flen
  pix : t.pix = s.pix
  trailer : t.crcExp = streamTrailer bits s.flen.toNat
  folded : t.crcAcc ^^^ 0xFFFFFFFF#32 = crc32 (streamBytes bits s.flen.toNat)
  bitpos : t.bitpos = 8 * (s.flen.toNat + 8)
  count : t.seqCnt = ceilDiv (8 * (s.flen.toNat + 8)) 3
  bytes : t.recovered s.flen.toNat = streamBytes bits s.flen.toNat
  feeds : t.Feeds z (bits.drop (8 * s.flen.toNat + 32))

section
variable {z : Option Coord} {bits : List Bool} {s t u : State}

/-- What is delivered, apart from the outcome. -/
theorem TailRead.delivered (hu : TailRead z bits s u) (h : s.LengthRead z bits) (hwf : s.rbuf.wf = true)
    (ht : t = { u with run := .idle, crcExp := streamTrailer bits s.flen.toNat, done := t.done, err := t.err,
                       errcode := t.errcode, crcok := t.crcok, rvalid := t.rvalid })
    (hok : streamTrailer bits s.flen.toNat = crc32 (streamBytes bits s.flen.toNat) →
      t.done = true ∧ t.err = false ∧ t.errcode = 0x00#8 ∧ t.rvalid = true ∧ t.crcok = true)
    (hno : streamTrailer bits s.flen.toNat ≠ crc32 (streamBytes bits s.flen.toNat) →
      t.done = false ∧ t.err = true ∧ t.errcode = 2#8 ∧ t.rvalid = false ∧ t.crcok = false) : Delivered z bits s t := by
  have hbitpos : t.bitpos = 8 * (s.flen.toNat + 8) := by
    have hb := hu.bitpos
    rw [h.bitpos] at hb
    rw [ht]
    exact hb.trans (by omega)
  have hfeeds : t.Feeds z (bits.drop (8 * s.flen.toNat + 32)) := hu.feeds.congr (by rw [ht])
  exact {
    verified := hok
    mismatch := hno
    run := by rw [ht]
    smode := by rw [ht, hu.ran.frame]
    flen := by rw [ht, hu.ran.frame]
    pix := by rw [ht, ← hu.pix]
    trailer := by rw [ht]
    folded := by
      have hacc : t.crcAcc = u.crcAcc := by rw [ht]
      rw [hacc, hu.folded hwf, h.crcAcc]
      rfl
    bitpos := hbitpos
    count := by
      rw [hfeeds.inStep.1, hbitpos]
      rfl
    bytes := by
      have hrbuf : t.rbuf = u.rbuf := by rw [ht]
      rw [State.recovered, hrbuf]
      exact hu.bytes hwf
    feeds := hfeeds }

/-- Past the gate, with the bits of payload and trailer to come, an extraction delivers (rules R203, R208). -/
theorem State.LengthRead.delivers (h : s.LengthRead z bits) (hwf : s.rbuf.wf = true) (hroom : s.flen.toNat ≤ s.cfg.rbufSize)
    (hn : 8 * s.flen.toNat + 32 ≤ bits.length) : ∃ t, finish (extractTail s) = .next t ∧ Delivered z bits s t := by
  obtain ⟨u, htail, hu⟩ := h.feeds.extractTail hroom hn
  have hframe := hu.ran.frame
  have hval : u.crcVal = crc32 (streamBytes bits s.flen.toNat) := by
    rw [State.crcVal, hu.folded hwf, h.crcAcc]
    rfl
  have hrun : u.run = .idle := (congrArg State.run hframe :).trans h.run
  have hfin := congrArg finish htail
  by_cases hc : streamTrailer bits s.flen.toNat = crc32 (streamBytes bits s.flen.toNat)
  · rw [extractVerify_of_eq (by exact hval.trans hc.symm), finish_ok] at hfin
    refine ⟨_, hfin, hu.delivered h hwf (by rw [← hrun]) (fun _ => ?_) (absurd hc)⟩
    obtain ⟨-, herr, hcode⟩ := h.outcome
    exact ⟨rfl, (congrArg State.err hframe :).trans herr, (congrArg State.errcode hframe :).trans hcode, rfl, rfl⟩
  · rw [extractVerify_of_ne (hval ▸ Ne.symm hc), finish_raised] at hfin
    refine ⟨_, hfin, hu.delivered h hwf (by rfl) (absurd · hc) fun _ => ?_⟩
    exact ⟨rfl, rfl, rfl, (congrArg State.rvalid hframe :).trans h.unread.1, rfl⟩

end

/-! ## The commands -/

/-- Settles O44: past the gate EXTRACT delivers, and its traversal is read to within two bits of its end. -/
theorem extractCompletesWithTheVerifiedPayload : Obligations.ExtractCompletesWithTheVerifiedPayload := by
  intro s m cs l bits p c hr hd hwf hcs hlen hgate hroom
  obtain ⟨u, hexec, hu, hflen, hframe⟩ := exec_extract_ungated hr hd hcs (by unfold ceilDiv; omega) (by rwa [hlen])
  obtain rfl : u.flen.toNat = l := hflen.trans hlen
  have hcfg : u.cfg = s.cfg := (congrArg State.cfg hframe :)
  have hrbuf : u.rbuf = s.rbuf := (congrArg State.rbuf hframe :)
  have hbits : (s.sourceBits cs).length = 3 * ceilDiv (8 * (u.flen.toNat + 8)) 3 := by
    rw [length_sourceBits, length_of_coordsFrom hcs]
  have hceil := le_mul_ceilDiv (8 * (u.flen.toNat + 8)) (n := 3) (by decide)
  obtain ⟨t, hfin, ht⟩ := hu.delivers (by rwa [hrbuf]) (by rwa [hcfg]) (by rw [List.length_drop]; omega)
  rw [hfin] at hexec
  have hwrites := exec_writes hexec
  have htpix : t.pix = s.pix := ht.pix.trans (congrArg State.pix hframe :)
  refine ⟨t, hexec, fun hc => ?ok, fun hc => ?bad, ht.run, ht.smode.trans (congrArg State.smode hframe :),
    congrArg BitVec.toNat ht.flen, ht.trailer, ht.folded, ht.bitpos, ht.count, fun x y hxy => ?last, ht.bytes,
    fun a ha => hwrites.rbuf_above a (ht.flen ▸ ha), htpix, congrArg (fun h => h.2.1) hwrites.hostSide⟩
  case ok =>
    obtain ⟨hdone, herr, hcode, hrv, hck⟩ := ht.verified hc
    exact ⟨hdone, herr, hcode, hrv, hck, by rw [readCsr_rlen, if_pos hrv]⟩
  case bad =>
    obtain ⟨hdone, herr, hcode, hrv, hck⟩ := ht.mismatch hc
    exact ⟨hdone, herr, hcode, hrv, hck, by rw [readCsr_rlen, hrv]; rfl⟩
  case last =>
    have hfeeds := ht.feeds
    rw [hxy] at hfeeds
    have hrest : 3 * ceilDiv (8 * (u.flen.toNat + 8)) 3 < 8 * (u.flen.toNat + 8) + 3 := by unfold ceilDiv; omega
    have hshows := hfeeds.shows (by rw [List.length_drop, List.length_drop]; omega)
    obtain ⟨-, hwidth, -⟩ := payload_of_hostSide hwrites.hostSide
    exact ⟨hshows.1, hshows.2.1, hshows.triplet htpix hwidth⟩

/-- Settles O45: the gate fires with the length field read, one bit of the last pixel left. -/
theorem extractSuspendsAboveTheThreshold : Obligations.ExtractSuspendsAboveTheThreshold := by
  intro s m cs hr hd hcs hen hthr
  obtain ⟨u, hexec, hu, hflen, hframe⟩ := exec_extract_of_traversal hr hd hcs (Nat.le_refl 11)
  obtain ⟨hfeeds, hb, hacc, -, ⟨hdone, herr, hcode⟩, hrv, hck⟩ := hu
  have hgateThr : u.gateThr = s.gateThr := (congrArg State.gateThr hframe :)
  have hpix : u.pix = s.pix := (congrArg State.pix hframe :)
  rw [extractGate_of_fires ((congrArg State.gateEn hframe :).trans hen) (by rwa [hgateThr, hflen])] at hexec
  refine ⟨_, hexec, rfl, hdone, herr, hcode, hrv, hck, (congrArg State.smode hframe :), hflen, hb, ?phase, ?count, hacc, ?trip,
    (congrArg State.rbuf hframe :), hpix, (congrArg State.pbuf hframe :), (congrArg State.crcExp hframe :)⟩
  case phase =>
    rw [State.phase, phaseOf, if_neg (by simp [hb]), if_pos]
    simp only [hb, hflen]
    omega
  case count => exact hfeeds.inStep.1.trans (by rw [hb])
  case trip =>
    intro x y hxy
    have hlen := length_of_coordsFrom hcs
    rw [List.getLast?_eq_getElem?, hlen, hxy] at hfeeds
    have hshows := hfeeds.shows (by rw [List.length_drop, length_sourceBits, hlen]; decide)
    exact hshows.triplet hpix (congrArg State.width hframe :)

/-- Settles O46: `check_dims` fails on the state that the six opening writes leave. -/
theorem extractWithBadDimensionsStopsBeforeTheTraversal : Obligations.ExtractWithBadDimensionsStopsBeforeTheTraversal :=
  fun _ _ hr hd => exec_extract_of_not_dims hr hd

/-- Settles O49: GATE_YES delivers from the bit that `TRIP` holds on. -/
theorem gateYesCompletesTheSuspendedExtract : Obligations.GateYesCompletesTheSuspendedExtract := by
  intro s cs l bits p c hs hr hroom hcs
  have hlen : (s.sourceBits cs).length = 3 * (ceilDiv (8 * (l + 8)) 3 - 11) := by
    rw [length_sourceBits, length_of_coordsFrom hcs]
  have hceil := le_mul_ceilDiv (8 * (l + 8)) (n := 3) (by decide)
  obtain ⟨t, hfin, ht⟩ := (hs.lengthRead hr hcs).delivers hs.rbuf_wf hroom
    (by rw [List.length_cons, hlen]; change 8 * l + 32 ≤ _; omega)
  rw [← exec_gateYes_of_gatewait hr] at hfin
  obtain ⟨hverified, hmismatch, hrun, hsmode, hflen, hpix, htrailer, hfolded, hbitpos, hcount, hbytes, -⟩ := ht
  exact ⟨t, hfin, hverified, hmismatch, hrun, hsmode, hflen, htrailer, hfolded, hbitpos, hcount, hbytes, hpix⟩

/-- Settles O51: the tail raises before its first pull. -/
theorem gateYesAboveTheBufferRaisesBufferRange : Obligations.GateYesAboveTheBufferRaisesBufferRange := by
  refine fun s => ⟨fun hr hroom => ?_, fun m cs => ?_⟩
  · rw [exec_gateYes_of_gatewait hr, extractTail_of_lt (by exact hroom)]
    rfl
  · intro l hr hd hcs hgate hroom
    obtain ⟨u, hexec, hu, hflen, hframe⟩ := exec_extract_ungated hr hd hcs (Nat.le_refl 11) hgate
    obtain ⟨hfeeds, hb, hacc, -, -, hrv, hck⟩ := hu
    have hcfg : u.cfg = s.cfg := (congrArg State.cfg hframe :)
    rw [extractTail_of_lt (by rwa [hcfg, hflen]), finish_raised] at hexec
    exact ⟨_, hexec, rfl, rfl, rfl, rfl, hrv, hck, (congrArg State.smode hframe :), hflen, hb,
      hfeeds.inStep.1.trans (by rw [hb]), hacc, (congrArg State.crcExp hframe :), (congrArg State.rbuf hframe :),
      (congrArg State.pix hframe :), (congrArg State.pbuf hframe :)⟩

/-- Settles O52: GATE_NO raises `UserAborted` where `RUN` accepts it. -/
theorem gateNoAbortsTheExtract : Obligations.GateNoAbortsTheExtract := by
  refine fun s => ⟨fun hr => ⟨?_, fun hs => (hs.gate_flags hr).2.2⟩, fun hr => ?_⟩
  · rw [exec_eq_runCommand (i := .gateNo) nofun nofun, runCommand_of_accepted (by rw [hr]; rfl)]
    rfl
  · exact exec_of_not_accepted (by rw [hr]; rfl)

/-! ## Out of pixels -/

/-- An extraction that ends in `SeqExhausted` with every bit pulled, from a state `u` with nothing readable, leaves what rule
R211 (a) says. -/
theorem ranOut_of_exec {s t u : State} {i : Instr} (h : exec i s = .next (raiseError .seqExhausted t))
    (hi : (∃ m, i = .extract m) ∨ i = .gateYes) (hran : Ran u t) (hend : t.AtEnd) (hu : u.rvalid = false ∧ u.crcok = false)
    (hexp : u.crcExp = s.crcExp) : s.RanOut (raiseError .seqExhausted t) := by
  have hwrites := exec_writes h
  have hside := hwrites.hostSide
  have hpix := hwrites.pix (by rintro rfl; simp at hi) (by rintro m rfl; simp at hi)
  simp only [State.hostSide, Prod.mk.injEq, raiseError_width, raiseError_height, raiseError_pbuf] at hside
  obtain ⟨⟨-, hw, hh, -⟩, hpbuf, -⟩ := hside
  have hrv : t.rvalid = u.rvalid := (congrArg State.rvalid hran.frame :)
  have hck : t.crcok = u.crcok := (congrArg State.crcok hran.frame :)
  have hx : t.crcExp = u.crcExp := (congrArg State.crcExp hran.frame :)
  exact ⟨⟨rfl, rfl, rfl, rfl⟩, ⟨hrv.trans hu.1, hck.trans hu.2⟩, hw ▸ hh ▸ ⟨hend.bitpos, hend.count⟩, hx.trans hexp, hpix,
    hpbuf⟩

/-- The tail runs out of pixels where the image has fewer bits left than payload and trailer take (rules R203, R211 (a)). -/
theorem State.LengthRead.runsOut {s u : State} {z : Option Coord} {bits : List Bool} {i : Instr} (h : u.LengthRead z bits)
    (hlast : u.Last bits) (hroom : u.flen.toNat ≤ u.cfg.rbufSize) (hn : bits.length < 8 * u.flen.toNat + 32)
    (hexec : exec i s = finish (extractTail u)) (hi : (∃ m, i = .extract m) ∨ i = .gateYes) (hexp : u.crcExp = s.crcExp) :
    ∃ t, exec i s = .next t ∧ s.RanOut t ∧ t.smode = u.smode ∧ t.flen = u.flen := by
  obtain ⟨t, htail, hran, hend⟩ := h.feeds.extractTail_exhausted hlast hroom hn
  rw [htail, finish_raised] at hexec
  exact ⟨_, hexec, ranOut_of_exec hexec hi hran hend h.unread hexp, (congrArg State.smode hran.frame :),
    (congrArg State.flen hran.frame :)⟩

/-- The length field runs out of pixels in an image of fewer than 11 (rules R202, R211 (a)). -/
theorem ranOut_in_length_field {s : State} {m : Mode} {cs : List Coord} (hr : s.run = .idle) (hd : s.DimsOk)
    (hcs : traversal m (s.width.toNat * s.height.toNat) s = some cs) (hn : s.width.toNat * s.height.toNat < 11) :
    ∃ t, exec (.extract m) s = .next t ∧ s.RanOut t ∧ t.smode = m ∧ t.flen = 0x00000000#32 ∧ t.crcAcc = 0xFFFFFFFF#32 ∧
      t.rbuf = s.rbuf := by
  have hbits : (s.sourceBits cs).length = 3 * (s.width.toNat * s.height.toNat) := by
    rw [length_sourceBits, length_of_coordsFrom hcs]
  obtain ⟨t, hpull, hpulls, hend⟩ :=
    (feeds_opened hd hcs).pullField_exhausted (n := 32) ((Nat.zero_add _).trans hbits) (by omega)
  have hframe := hpulls.frame
  have hexec := exec_extract_of_dims (m := m) hr hd
  rw [hpull, andThen_raised, finish_raised] at hexec
  exact ⟨_, hexec, ranOut_of_exec hexec (.inl ⟨m, rfl⟩) hpulls.ran hend ⟨rfl, rfl⟩ rfl, (congrArg State.smode hframe :),
    (congrArg State.flen hframe :), (congrArg State.crcAcc hframe :), (congrArg State.rbuf hframe :)⟩

/-- Settles O47: the length field, or the tail, needs more bits than the image has left. -/
theorem extractRunsOutOfPixelsBeyondCapacity : Obligations.ExtractRunsOutOfPixelsBeyondCapacity := by
  intro s cs n
  refine ⟨fun m hr hd hcs => ⟨ranOut_in_length_field hr hd hcs, fun l hn hlen hgate hroom hcap => ?tail⟩,
    fun hs hr hroom hcs hcap => ?resumed⟩
  case tail =>
    have hbits : (s.sourceBits cs).length = 3 * n := by rw [length_sourceBits, length_of_coordsFrom hcs]
    obtain ⟨u, hexec, hu, hflen, hframe⟩ := exec_extract_ungated hr hd hcs hn (by rwa [hlen])
    obtain rfl : u.flen.toNat = l := hflen.trans hlen
    have hcfg : u.cfg = s.cfg := (congrArg State.cfg hframe :)
    have hlast : u.Last ((s.sourceBits cs).drop 32) := by
      rw [State.Last, hu.bitpos, List.length_drop, hbits, hframe]
      change 32 + (3 * n - 32) = 3 * n
      omega
    obtain ⟨t, ht, hran, hsmode, htflen⟩ := hu.runsOut hlast (by rwa [hcfg]) (by rw [List.length_drop]; omega) hexec
      (.inl ⟨m, rfl⟩) (congrArg State.crcExp hframe :)
    exact ⟨t, ht, hran, hsmode.trans (congrArg State.smode hframe :), congrArg BitVec.toNat htflen⟩
  case resumed =>
    have hread := hs.lengthRead hr hcs
    have hn : 11 ≤ n := by
      have hcount := hs.count
      obtain ⟨hsw, hsh⟩ := hs.gate_latch hr
      obtain ⟨-, hcnt, -⟩ := hs.gate_at hr
      rwa [hcnt, hsw, hsh] at hcount
    have hbits : (s.trip.v.getLsbD 2 :: s.sourceBits cs).length = 3 * (n - 11) + 1 := by
      rw [List.length_cons, length_sourceBits, length_of_coordsFrom hcs]
    have hlast : State.Last { prologue s with run := .idle } (s.trip.v.getLsbD 2 :: s.sourceBits cs) := by
      rw [State.Last, hread.bitpos, hbits]
      change 32 + (3 * (n - 11) + 1) = 3 * n
      omega
    have hshort : (s.trip.v.getLsbD 2 :: s.sourceBits cs).length < 8 * s.flen.toNat + 32 := by omega
    exact hread.runsOut hlast hroom hshort (exec_gateYes_of_gatewait hr) (.inr rfl) rfl

end Sys2Proof.Machine
end

section
/-! SUPPORT. Two runs of EXTRACT compared that differ in `GATE_EN` or in PIX (spec/46_extract.md rules R200, R205): the pieces of
EXTRACT read the gate's enable nowhere but at the gate, and of PIX the data bits of the image alone. -/

namespace Sys2Proof.Machine

/-- The state with the gate's enable and PIX replaced. -/
def State.twin (g : Bool → Bool) (p : Memory → Memory) (s : State) : State :=
  { s with gateEn := g s.gateEn, pix := p s.pix }

/-- In the middle of a traversal, `t` is `s` with the gate's enable and PIX replaced, the data bits of the image alike. -/
structure Twins (g : Bool → Bool) (p : Memory → Memory) (s t : State) : Prop where
  latched : s.Latched
  lsbs : ∀ x y k, x < s.width.toNat → y < s.height.toNat → k < 3 → t.lsbAt (x, y) k = s.lsbAt (x, y) k
  twin : t = s.twin g p

section
variable {g : Bool → Bool} {p : Memory → Memory} {s t : State}

theorem Twins.tailed {u : State} (h : Twins g p s t) (hu : Tailed s u) : Twins g p u (u.twin g p) := by
  obtain ⟨hl, hlsb, rfl⟩ := h
  rw [hu]
  exact ⟨hl, hlsb, rfl⟩

/-- A request reads neither. -/
theorem seqNext_twin (g : Bool → Bool) (p : Memory → Memory) (s : State) :
    (∃ xy t, seqNext s = .ok xy t ∧ seqNext (s.twin g p) = .ok xy (t.twin g p)) ∨
    (∃ e, seqNext s = .raised e s ∧ seqNext (s.twin g p) = .raised e (s.twin g p)) ∨
    (∃ f, seqNext s = .stuck f ∧ seqNext (s.twin g p) = .stuck f) := by
  rcases Nat.lt_or_ge s.seqCnt (s.sw.toNat * s.sh.toNat) with hc | hc
  · cases hm : s.smode with
    | seq => exact .inl ⟨_, _, seqNext_sequential hc hm, seqNext_sequential (s := s.twin g p) hc hm⟩
    | rng =>
      cases hd : redraw s.cfg.prng s.sw.toNat s.sh.toNat s.used drawBound s.prngS with
      | none => exact .inr (.inr ⟨_, seqNext_hang hc hm hd, seqNext_hang (s := s.twin g p) hc hm hd⟩)
      | some d => exact .inl ⟨_, _, seqNext_random hc hm hd, seqNext_random (s := s.twin g p) hc hm hd⟩
  · exact .inr (.inl ⟨_, seqNext_full hc, seqNext_full (s := s.twin g p) hc⟩)

theorem Twins.pullBit (h : Twins g p s t) : (pullBit s).Rel (Twins g p) (pullBit t) := by
  obtain ⟨hl, hlsb, rfl⟩ := id h
  obtain ⟨hsw, hsh, hfit⟩ := hl
  by_cases hb : s.bitpos % 3 = 0
  · rcases seqNext_twin g p s with ⟨xy, u, h1, h2⟩ | ⟨e, h1, h2⟩ | ⟨f, h1, h2⟩
    · obtain ⟨hx, hy⟩ := (seqNext_ok h1).inside
      rw [hsw] at hx
      rw [hsh] at hy
      have hk (k : Nat) (hk : k < 3) : (s.twin g p).lsbAt xy k = s.lsbAt xy k := hlsb xy.1 xy.2 k hx hy hk
      have hpull := pullBit_fresh hb h1 hsw hsh hfit
      obtain ⟨hpulls, -⟩ := pulls_of_pullBit hpull
      rw [hpull, pullBit_fresh (s := s.twin g p) hb h2 hsw hsh hfit, hk 0 (by decide), hk 1 (by decide), hk 2 (by decide)]
      exact .ok _ (h.tailed hpulls.frame.tailed)
    · rw [Machine.pullBit, pullPixel, if_pos hb, h1, Machine.pullBit, pullPixel, if_pos (by exact hb), h2]
      exact .raised e h
    · rw [Machine.pullBit, pullPixel, if_pos hb, h1, Machine.pullBit, pullPixel, if_pos (by exact hb), h2]
      exact .stuck f
  · rw [pullBit_held hb, pullBit_held (s := s.twin g p) hb]
    exact .ok _ (h.tailed rfl)

theorem Twins.pullBits (n v : Nat) (h : Twins g p s t) : (pullBits n v s).Rel (Twins g p) (pullBits n v t) := by
  induction n generalizing v s t with
  | zero => exact .ok v h
  | succ n ih => exact h.pullBit.andThen fun b _ _ h1 => ih _ h1

theorem Twins.pullField (n : Nat) (h : Twins g p s t) : (pullField n s).Rel (Twins g p) (pullField n t) := h.pullBits n 0

theorem Twins.extractPayload (n j : Nat) (h : Twins g p s t) : (extractPayload n j s).Rel (Twins g p) (extractPayload n j t) := by
  induction n generalizing j s t with
  | zero => exact .ok () h
  | succ n ih =>
    rw [extractPayload_succ, extractPayload_succ]
    refine (h.pullField 8).andThen fun v s1 t1 h1 => ?_
    have hstored := h1.tailed (u := s1.stored j (BitVec.ofNat 8 v)) rfl
    rw [h1.twin]
    exact .ite Iff.rfl (fun _ => ih (j + 1) hstored) fun _ => .stuck _

theorem Twins.extractVerify (h : Twins g p s t) : (extractVerify s).Rel (Twins g p) (extractVerify t) := by
  rw [h.twin]
  exact .ite Iff.rfl (fun _ => .ok () (h.tailed rfl)) fun _ => .raised _ (h.tailed rfl)

theorem Twins.extractTail (h : Twins g p s t) : (extractTail s).Rel (Twins g p) (extractTail t) := by
  have hpay (n : Nat) := h.extractPayload n 0
  obtain ⟨hl, hlsb, rfl⟩ := id h
  refine .ite Iff.rfl (fun _ => .raised _ h) fun _ => (hpay _).andThen fun _ s1 t1 h1 => ?_
  refine (h1.pullField 32).andThen fun v s2 t2 h2 => ?_
  have hexp := h2.tailed (u := { s2 with crcExp := BitVec.ofNat 32 v }) rfl
  rw [h2.twin]
  exact hexp.extractVerify

/-- With the same enable the gate is read alike too. -/
theorem Twins.extractGate (h : Twins id p s t) : (extractGate s).Rel (Twins id p) (extractGate t) := by
  have htail := h.extractTail
  obtain ⟨hl, hlsb, rfl⟩ := h
  exact .ite Iff.rfl (fun _ => .suspended ⟨hl, hlsb, rfl⟩) fun _ => htail

theorem finish_twin {r r' : Res Unit} (h : r.Rel (fun s t => t = s.twin g p) r') :
    (∀ t, finish r = .next t → finish r' = .next (t.twin g p)) ∧ (∀ f, finish r = .fault f → finish r' = .fault f) := by
  cases h with
  | ok _ h | raised _ h | suspended h =>
    subst h
    refine ⟨fun t ht => ?_, fun f hf => ?_⟩
    · cases ht
      rfl
    · cases hf
  | stuck x =>
    refine ⟨fun t ht => ?_, fun f hf => hf⟩
    cases ht

/-- Two runs of EXTRACT begin alike. -/
theorem twins_opened (m : Mode) (hd : s.DimsOk)
    (h : ∀ x y k, x < s.width.toNat → y < s.height.toNat → k < 3 → (s.twin g p).lsbAt (x, y) k = s.lsbAt (x, y) k) :
    Twins g p (s.opened m) ((s.twin g p).opened m) := ⟨latched_seqInit m hd, h, rfl⟩

end

/-- Settles O54: the two runs are refused alike, or run alike. -/
theorem extractReadsOnlyColourLsbs : Obligations.ExtractReadsOnlyColourLsbs := by
  intro s t m q hq h
  change exec (.extract m) (s.twin id fun _ => q) = .next (t.twin id fun _ => q)
  by_cases hr : s.run = .idle
  · by_cases hd : s.DimsOk
    · rw [exec_extract_of_dims hr hd] at h
      rw [exec_extract_of_dims (by exact hr) (by exact hd)]
      have hopened := twins_opened (g := id) (p := fun _ => q) m hd hq
      refine (finish_twin (((hopened.pullField 32).andThen fun l u v h => ?_).mono fun _ _ h => h.twin)).1 t h
      obtain ⟨hl, hlsb, rfl⟩ := h
      exact Twins.extractGate ⟨hl, hlsb, rfl⟩
    · rw [exec_extract_of_not_dims hr hd] at h
      rw [exec_extract_of_not_dims (by exact hr) (by exact hd)]
      cases h
      rfl
  · have ha : accepted (.extract m) s.run = false := by simpa [accepted] using hr
    rw [exec_of_not_accepted ha] at h
    rw [exec_of_not_accepted (by exact ha)]
    cases h
    rfl

/-- An EXTRACT that suspends has read its length field and come to a gate that fires (rules R202, R204). -/
theorem suspended_of_exec_extract {s u : State} {m : Mode} (h : exec (.extract m) s = .next u) (hu : u.run = .gatewait) :
    s.run = .idle ∧ s.DimsOk ∧ ∃ l t, pullField 32 (s.opened m) = .ok l t ∧
      u = { t with flen := BitVec.ofNat 32 l, run := .gatewait } := by
  have hr : s.run = .idle := by
    by_contra hr
    rw [exec_of_not_accepted (by simpa [accepted] using hr)] at h
    cases h
    cases hu
  have hd : s.DimsOk := by
    by_contra hd
    rw [exec_extract_of_not_dims hr hd] at h
    cases h
    cases hu
  refine ⟨hr, hd, ?_⟩
  rw [exec_extract_of_dims hr hd] at h
  have hsat := pullField_sat 32 (s.opened m)
  cases hpull : pullField 32 (s.opened m) with
  | ok l t =>
    rw [hpull] at h hsat
    have hidle : t.run = .idle := (congrArg State.run hsat.1.frame :).trans hr
    refine ⟨l, t, rfl, ?_⟩
    rw [andThen_ok, extractGate] at h
    split at h
    · exact (Host.Outcome.next.inj h).symm
    · have hrun : u.run = .idle := finish_all (q := fun v => v.run = .idle) (extractTail_tailed _) h
        (fun v hv => (congrArg State.run hv :).trans hidle) (fun _ _ _ => rfl) (fun v hv => (congrArg State.run hv :).trans hidle)
      rw [hrun] at hu
      cases hu
  | raised e t =>
    rw [hpull] at h
    cases h
    cases hu
  | suspended t =>
    rw [hpull] at hsat
    exact hsat.elim
  | stuck f =>
    rw [hpull] at h
    cases h

theorem Res.Rel.of_ok {α : Type} {R : State → State → Prop} {a : α} {s : State} {r : Res α} (h : (Res.ok a s).Rel R r) :
    ∃ t, r = .ok a t ∧ R s t := by
  cases h with
  | ok _ h => exact ⟨_, rfl, h⟩

/-- Settles O50: with the gate off the length field is read alike, and the tail starts where GATE_YES resumes it. -/
theorem gateYesGivesTheUngatedResult : Obligations.GateYesGivesTheUngatedResult := by
  intro s u m h hu
  obtain ⟨hr, hd, l, t, hpull, rfl⟩ := suspended_of_exec_extract h hu
  have hfield := (twins_opened (g := fun _ => false) (p := id) (s := s) m hd fun _ _ _ _ _ _ => rfl).pullField 32
  have hsat := pullField_sat 32 (s.opened m)
  rw [hpull] at hfield hsat
  obtain ⟨t', hpull', hlatched, hlsb, rfl⟩ := hfield.of_ok
  have htwins : Twins (fun _ => false) id { t with flen := BitVec.ofNat 32 l }
    (State.twin (fun _ => false) id { t with flen := BitVec.ofNat 32 l }) := ⟨hlatched, hlsb, rfl⟩
  have hresumed : ({ prologue { t with flen := BitVec.ofNat 32 l, run := .gatewait } with run := .idle } : State) =
      { t with flen := BitVec.ofNat 32 l } := by
    rw [hsat.1.frame, ← hr]
    rfl
  have hungated := exec_extract_of_dims (s := s.twin (fun _ => false) id) (m := m) hr hd
  rw [hpull', andThen_ok, extractGate_of_passes (.inl rfl)] at hungated
  have hyes : exec .gateYes _ = finish (extractTail { t with flen := BitVec.ofNat 32 l }) :=
    (exec_gateYes_of_gatewait hu).trans (congrArg (finish <| extractTail ·) hresumed)
  obtain ⟨hnext, hfault⟩ := finish_twin (htwins.extractTail.mono fun _ _ h => h.twin)
  rw [hyes]
  refine Eq.trans hungated ?_
  cases hfin : finish (extractTail { t with flen := BitVec.ofNat 32 l }) with
  | next v => exact hnext v hfin
  | fault f => exact hfault f hfin
  | refused r => exact absurd hfin (finish_ne_refused _ r)

end Sys2Proof.Machine
end

section
/-! SUPPORT. The round trip (spec/46_extract.md rule R210): the fields of a bit source that begins with a frame, the bits of the
pixels EMBED wrote, and EXTRACT on them. -/

namespace Sys2Proof.Machine

/-! ## The fields of a frame -/

theorem bytesOf_byteBits (b : Byte) : bytesOf (byteBits b) = b.toNat := by
  rw [← bytesOf_bitsOf_singleton b, bitsOf_cons, bitsOf_nil, List.append_nil]

theorem streamBytes_bitsOf (bytes : List Byte) (rest : List Bool) :
    streamBytes (bitsOf bytes ++ rest) bytes.length = bytes := by
  induction bytes with
  | nil => rfl
  | cons b bytes ih =>
    have htake : (byteBits b ++ (bitsOf bytes ++ rest)).take 8 = byteBits b := List.take_left' (length_byteBits b)
    have hdrop : (byteBits b ++ (bitsOf bytes ++ rest)).drop 8 = bitsOf bytes ++ rest := List.drop_left' (length_byteBits b)
    rw [bitsOf_cons, List.append_assoc, List.length_cons, streamBytes_succ, htake, hdrop, ih, bytesOf_byteBits,
      BitVec.ofNat_toNat, BitVec.setWidth_eq]

theorem bytesOf_take_be32 (v : Word) (rest : List Bool) : bytesOf ((bitsOf (be32 v) ++ rest).take 32) = v.toNat := by
  rw [List.take_left' (length_bitsOf_be32 v), bytesOf_bitsOf_be32]

/-- A source that begins with the frame of `p` reads as its length, `p`, and its CRC (rules R120, R201). -/
theorem stream_of_frame (p : List Byte) (rest : List Bool) (hp : p.length < 2 ^ 32) :
    let bits := bitsOf (frame p) ++ rest
    streamLength bits = p.length ∧ streamBytes (bits.drop 32) p.length = p ∧
      streamTrailer (bits.drop 32) p.length = crc32 p := by
  intro bits
  have hbits : bits = bitsOf (be32 (BitVec.ofNat 32 p.length)) ++ (bitsOf p ++ (bitsOf (be32 (crc32 p)) ++ rest)) := by
    simp only [bits, bitsOf_frame, List.append_assoc]
  have hdrop : bits.drop 32 = bitsOf p ++ (bitsOf (be32 (crc32 p)) ++ rest) := by
    rw [hbits, List.drop_left' (length_bitsOf_be32 _)]
  refine ⟨?_, ?_, ?_⟩
  · rw [streamLength, hbits, bytesOf_take_be32, BitVec.toNat_ofNat, Nat.mod_eq_of_lt hp]
  · rw [hdrop, streamBytes_bitsOf]
  · rw [hdrop, streamTrailer, List.drop_left' (length_bitsOf p), bytesOf_take_be32, BitVec.ofNat_toNat, BitVec.setWidth_eq]

/-! ## The bits EMBED wrote -/

section
variable {s t u : State} {m : Mode} {cs : List Coord}

/-- Bit `i` of the source is channel `i mod 3` of pixel `i div 3` (rule R200). -/
theorem getElem?_sourceBits (s : State) (cs : List Coord) (i : Nat) :
    (s.sourceBits cs)[i]? = cs[i / 3]?.map fun xy => s.lsbAt xy (i % 3) := by
  induction cs generalizing i with
  | nil => rfl
  | cons xy cs ih =>
    match i with
    | 0 | 1 | 2 => rfl
    | i + 3 =>
      rw [Nat.add_div_right i (by decide), Nat.add_mod_right]
      exact ih i

/-- The pixels of a written frame give its bits. -/
theorem take_sourceBits_of_frameWritten {p : List Byte} {w : Nat} {q : Memory}
    (h : FrameWritten p (crc32 p) (frameBits p.length) w 0 cs q u.pix) (hw : u.width.toNat = w)
    (hcs : cs.length = ceilDiv (frameBits p.length) 3) : (u.sourceBits cs).take (frameBits p.length) = bitsOf (frame p) := by
  have hceil := le_mul_ceilDiv (frameBits p.length) (n := 3) (by decide)
  refine List.ext_getElem? fun i => ?_
  rw [List.getElem?_take]
  split
  · rename_i hi
    obtain ⟨xy, hxy⟩ : ∃ xy, cs[i / 3]? = some xy := ⟨_, List.getElem?_eq_getElem (by omega)⟩
    rw [getElem?_sourceBits, hxy, getElem?_bitsOf_frame p i hi, frameBit, ← h.lsb hi hxy, ← hw]
    rfl
  · rename_i hi
    exact (List.getElem?_eq_none (by rw [length_bitsOf_frame]; exact Nat.not_lt.1 hi)).symm

/-- The triplet loop raises nothing while the image has pixels left: it completes or hangs (rules R162, R168). -/
theorem embedLoop_of_room {payload : List Byte} {c : Word} {r n k : Nat} (hl : s.Latched)
    (hn : s.seqCnt + n ≤ s.sw.toNat * s.sh.toNat) :
    (∃ t, embedLoop payload c r n k s = .ok () t) ∨ embedLoop payload c r n k s = .stuck .hang := by
  induction n generalizing k s with
  | zero => exact .inl ⟨s, rfl⟩
  | succ n ih =>
    rcases seqNext_cases s with ⟨xy, t, hs, he⟩ | ⟨hfull, -⟩ | ⟨-, -, hs⟩
    · obtain ⟨hl1, hx, hy⟩ := he.latched hl
      obtain ⟨hsw, hsh, -, hcnt⟩ := he.sequencer
      rw [embedLoop_succ hs hl1 hx hy]
      refine ih (s := t.tripletWritten xy _ _) hl1 ?_
      change t.seqCnt + n ≤ t.sw.toNat * t.sh.toNat
      rw [hsw, hsh, hcnt]
      omega
    · omega
    · exact .inr (by rw [embedLoop, hs]; rfl)

/-- An EMBED whose conditions hold hangs, or its traversal answers (rules R191, R194). -/
theorem exec_embed_cases (hr : s.run = .idle) (hf : s.EmbedFits) :
    exec (.embed m) s = .fault .hang ∨ ∃ cs, traversal m s.framePixels s = some cs := by
  have hlatched : (seqInit m (prologue s).framed).Latched := latched_seqInit m hf.dims
  have hroom : 0 + s.framePixels ≤ s.width.toNat * s.height.toNat := by
    rw [Nat.zero_add]
    exact hf.pixels_le
  rcases embedLoop_of_room (payload := s.payload s.plen.toNat) (c := crc32 (s.payload s.plen.toNat))
    (r := frameBits s.plen.toNat) (k := 0) hlatched hroom with ⟨t, ht⟩ | ht
  · rw [← traversal_framed]
    exact .inr (coordsFrom_of_embedLoop ht hlatched)
  · have hframe : (prologue s).writeFrame m = .stuck .hang := ht
    exact .inl (by rw [exec_embed_of_fits hr hf, hframe, finish_stuck])

theorem length_payload (s : State) (n : Nat) : (s.payload n).length = n := by
  rw [State.payload, List.length_map, List.length_range]

/-! ## EXTRACT on them -/

/-- EXTRACT of a source that begins with the frame of `p`, past the gate (rules R203, R210). -/
theorem exec_extract_of_frame {p : List Byte} {rest : List Bool} (hr : u.run = .idle) (hd : u.DimsOk)
    (hwf : u.rbuf.wf = true) (hroom : p.length ≤ u.cfg.rbufSize) (hp : p.length < 2 ^ 32)
    (hcs : traversal m (ceilDiv (frameBits p.length) 3) u = some cs) (hbits : u.sourceBits cs = bitsOf (frame p) ++ rest)
    (hg : u.gateEn = false ∨ p.length ≤ u.gateThr.toNat) :
    ∃ v, exec (.extract m) u = .next v ∧ v.done = true ∧ v.rvalid = true ∧ v.crcok = true ∧ v.flen.toNat = p.length ∧
      v.recovered p.length = p := by
  obtain ⟨hlen, hbytes, htrailer⟩ := stream_of_frame p rest hp
  rw [← hbits] at hlen hbytes htrailer
  obtain ⟨v, hexec, hok, -, -, -, hflen, -, -, -, -, -, hrec, -⟩ :=
    extractCompletesWithTheVerifiedPayload u m cs p.length hr hd hwf hcs hlen hg hroom
  obtain ⟨hdone, -, -, hrv, hck, -⟩ := hok (by rw [htrailer, hbytes])
  exact ⟨v, hexec, hdone, hrv, hck, hflen, hrec.trans hbytes⟩

/-- Where the gate fires GATE_YES gives what EXTRACT gives with the gate off (rule R205). -/
theorem exec_extract_resumed {n : Nat} {v : State} (hr : u.run = .idle) (hd : u.DimsOk) (hcs : traversal m n u = some cs)
    (hn : 11 ≤ n) (hen : u.gateEn = true) (hthr : u.gateThr.toNat < streamLength (u.sourceBits cs))
    (hv : exec (.extract m) { u with gateEn := false } = .next v) :
    ∃ g w, exec (.extract m) u = .next g ∧ g.run = .gatewait ∧ exec .gateYes g = .next w ∧
      v = { w with gateEn := false } := by
  obtain ⟨x, hexec, -, hflen, hframe⟩ := exec_extract_of_traversal hr hd hcs hn
  have hxthr : x.gateThr = u.gateThr := (congrArg State.gateThr hframe :)
  rw [extractGate_of_fires ((congrArg State.gateEn hframe :).trans hen) (by rwa [hxthr, hflen]), finish_suspended] at hexec
  have hyes := gateYesGivesTheUngatedResult u _ m hexec rfl
  rw [hv] at hyes
  cases hw : exec .gateYes { x with run := .gatewait } with
  | next w =>
    rw [hw] at hyes
    exact ⟨_, w, hexec, rfl, hw, Host.Outcome.next.inj hyes⟩
  | fault f | refused r =>
    rw [hw] at hyes
    cases hyes

/-- EXTRACT of a source that begins with the frame of `p`, and GATE_YES where it suspends, give `p` back (rule R210). -/
theorem extract_gives_back {p : List Byte} {rest : List Bool} (hr : u.run = .idle) (hd : u.DimsOk)
    (hwf : u.rbuf.wf = true) (hroom : p.length ≤ u.cfg.rbufSize) (hp : p.length < 2 ^ 32)
    (hcs : traversal m (ceilDiv (frameBits p.length) 3) u = some cs) (hbits : u.sourceBits cs = bitsOf (frame p) ++ rest) :
    ∃ v, (exec (.extract m) u = .next v ∨
        ∃ g, exec (.extract m) u = .next g ∧ g.run = .gatewait ∧ exec .gateYes g = .next v) ∧
      v.done = true ∧ v.rvalid = true ∧ v.crcok = true ∧ v.flen.toNat = p.length ∧ v.recovered p.length = p := by
  by_cases hg : u.gateEn = false ∨ p.length ≤ u.gateThr.toNat
  · obtain ⟨v, hexec, hgives⟩ := exec_extract_of_frame hr hd hwf hroom hp hcs hbits hg
    exact ⟨v, .inl hexec, hgives⟩
  · obtain ⟨hen, hthr⟩ := not_or.1 hg
    obtain ⟨hlen, -, -⟩ := stream_of_frame p rest hp
    have hcs' : traversal m (ceilDiv (frameBits p.length) 3) { u with gateEn := false } = some cs :=
      (traversalDependsOnlyOnSeedSizeAndMode { u with gateEn := false } u m _ rfl rfl rfl rfl rfl).trans hcs
    obtain ⟨v, hv, hgives⟩ :=
      exec_extract_of_frame (u := { u with gateEn := false }) hr hd hwf hroom hp hcs' hbits (.inl rfl)
    obtain ⟨g, w, hexec, hgrun, hyes, rfl⟩ := exec_extract_resumed hr hd hcs (by unfold ceilDiv frameBits; omega)
      (by simpa using hen) (by rw [hbits, hlen]; omega) hv
    exact ⟨w, .inr ⟨g, hexec, hgrun, hyes⟩, hgives⟩

end

/-- Settles O53: the pixels EMBED wrote give the bits of its frame, in the order in which EXTRACT reads them. -/
theorem extractRecoversWhatEmbedWrote : Obligations.ExtractRecoversWhatEmbedWrote := by
  intro s m hr hd hw hb hroom hcap
  have hf : s.EmbedFits := ⟨hd, hb, hcap⟩
  have hlen := length_payload s s.plen.toNat
  rcases exec_embed_cases (m := m) hr hf with hhang | ⟨cs, hcs⟩
  · exact .inl hhang
  obtain ⟨t, hexec, -⟩ := exec_embed_of_traversal hr hf hcs
  obtain ⟨-, hframe⟩ := frameWritten_of_embed hr hf hw hcs hexec
  have hside := (exec_writes hexec).hostSide
  simp only [State.hostSide, Prod.mk.injEq] at hside
  obtain ⟨⟨-, hwidth, hheight, -, -, hlo, hhi⟩, -, hcfg, -⟩ := hside
  refine .inr ⟨_, hexec, rfl, fun u hur huc huw huh hul huhi hupix huwf => ?_⟩
  replace hwidth := huw.trans hwidth
  replace hheight := huh.trans hheight
  replace hcfg := huc.trans hcfg
  have hud : u.DimsOk := by
    rw [State.DimsOk, hwidth, hheight, hcfg]
    exact hd
  have hcs' : traversal m s.framePixels u = some cs :=
    (traversalDependsOnlyOnSeedSizeAndMode u s m _ (congrArg Config.prng hcfg) (huhi.trans hhi) (hul.trans hlo) hwidth
      hheight).trans hcs
  rw [State.framePixels, ← hlen] at hcs'
  rw [← hupix] at hframe
  have htake := take_sourceBits_of_frameWritten (by rwa [hlen]) (congrArg BitVec.toNat hwidth) (length_of_coordsFrom hcs')
  have hbits := List.take_append_drop (frameBits (s.payload s.plen.toNat).length) (u.sourceBits cs)
  rw [htake] at hbits
  obtain ⟨v, hway, hdone, hrv, hck, hflen, hrec⟩ := extract_gives_back hur hud huwf (by rwa [hlen, hcfg])
    (by rw [hlen]; exact s.plen.isLt) hcs' hbits.symm
  rw [hlen] at hflen hrec
  refine ⟨v, hway, hdone, hrv, hck, ?_, fun j hj => ?_⟩
  · rw [readCsr_rlen, if_pos hrv]
    exact BitVec.eq_of_toNat_eq hflen
  · exact List.map_inj_left.1 hrec j (List.mem_range.2 hj)

end Sys2Proof.Machine
end

section
/-! SUPPORT. The control commands NOP and CLR (spec/47_control.md rules R215, R216), which are performed in every `RUN`. -/

namespace Sys2Proof.Machine

/-- NOP has neither prologue nor epilogue (rule R96 step 3). -/
theorem exec_nop (s : State) : exec .nop s = .next s := rfl

/-- CLR has the prologue but no epilogue, so `DONE` stays 0 (rule R216). -/
theorem exec_clr (s : State) : exec .clr s = .next (clear (prologue s)) := rfl

/-- Settles O16. -/
theorem nopChangesNothing : Obligations.NopChangesNothing := exec_nop

/-- Settles O17: the prologue clears `DONE`, `ERR` and `ERRCODE`, `clear` resets the rest, and `PRNG_S` is the next free value. -/
theorem clrLeavesResetValuesAndKeepsConfiguration : Obligations.ClrLeavesResetValuesAndKeepsConfiguration :=
  fun s => ⟨Config.freePrngS s.freeCtr, s.freeCtr + 1, exec_clr s⟩

end Sys2Proof.Machine
end
